-- ==== Sys2Proof/Word.lean ====
section
/-!
DEFINITION. The words of the SWD engine: 8-bit command and header bytes, and 32-bit data words
(00_scope.md rule R7: every value is unsigned, bit 0 is the least significant).
-/

namespace Sys2Proof

/-- An 8-bit command word or SWD header byte. -/
abbrev Byte := BitVec 8

/-- A 32-bit data word, slot word or raw received word. -/
abbrev Word := BitVec 32

end Sys2Proof
end

