-- ==== Sys2Proof/Machine/Codec.lean ====
section
/-!
DEFINITION. The header encoder of the SWD Codec, and the command bytes whose fields stand at the header's positions.
Pure functions of their inputs (41_codec.md rule R77).
-/

namespace Sys2Proof.Machine

/-- The header's parity bit P (41_codec.md rule R78). -/
def headerParity (apndp rnw : Bool) (addr : BitVec 2) : Bool :=
  (apndp ^^ rnw) ^^ (addr.getLsbD 0 ^^ addr.getLsbD 1)

/-- A bit as a byte, for the encoders' shifts. -/
def bitByte (b : Bool) : Byte := if b then 1 else 0

/-- A header byte with the parity bit given (30_encoding.md rule R53). -/
def headerByte (apndp rnw : Bool) (addr : BitVec 2) (parity : Bool) : Byte :=
  0x81#8 ||| (bitByte apndp <<< 1) ||| (bitByte rnw <<< 2) ||| (addr.setWidth 8 <<< 3) ||| (bitByte parity <<< 5)

/-- `BuildHeader` (41_codec.md rule R78). -/
def buildHeader (apndp rnw : Bool) (addr : BitVec 2) : Byte :=
  headerByte apndp rnw addr (headerParity apndp rnw addr)

/-- The command byte of a TRANSFER (30_encoding.md rules R49 and R62). -/
def transferByte (apndp rnw : Bool) (addr : BitVec 2) : Byte :=
  (bitByte apndp <<< 1) ||| (bitByte rnw <<< 2) ||| (addr.setWidth 8 <<< 3)

/-- The command byte of LINE_RESET (43_line.md rule R104). -/
def lineResetByte : Byte := 0x20

/-- The command byte of SWITCH_TO_SWD (43_line.md rule R105). -/
def switchToSwdByte : Byte := 0x40

/-- The command byte of CONNECT (43_line.md rule R106). -/
def connectByte : Byte := 0x60

end Sys2Proof.Machine
end

