-- ==== Sys2Proof/Syntax.lean ====
section
/-!
DEFINITION. The instructions: one constructor per row of spec/opcode_table.json. The seven CMD8 rows are host commands
(30_encoding.md rule R49): every one carries the 32-bit `wdata` offered with it, which only the write transfers use.
The four SWD_HDR8 rows are the header bytes the engine sends on the wire (30_encoding.md rule R53); they are not host
commands. A header carries its parity bit, as the row's field `P`; WellFormed says what it must be.
-/

namespace Sys2Proof

inductive Instr where
  /-- DPR (42_engine.md rule R99). -/
  | dpr (addr : BitVec 2) (wdata : Word)
  /-- DPW (42_engine.md rule R100). -/
  | dpw (addr : BitVec 2) (wdata : Word)
  /-- APR (42_engine.md rule R101). -/
  | apr (addr : BitVec 2) (wdata : Word)
  /-- APW (42_engine.md rule R102). -/
  | apw (addr : BitVec 2) (wdata : Word)
  /-- LINE_RESET (43_line.md rule R104). -/
  | lineReset (wdata : Word)
  /-- SWITCH_TO_SWD (43_line.md rule R105). -/
  | switchToSwd (wdata : Word)
  /-- CONNECT (43_line.md rule R106). -/
  | connect (wdata : Word)
  /-- HDR_DP_READ: the header DPR sends. -/
  | hdrDpRead (addr : BitVec 2) (parity : Bool)
  /-- HDR_DP_WRITE: the header DPW sends. -/
  | hdrDpWrite (addr : BitVec 2) (parity : Bool)
  /-- HDR_AP_READ: the header APR sends. -/
  | hdrApRead (addr : BitVec 2) (parity : Bool)
  /-- HDR_AP_WRITE: the header APW sends. -/
  | hdrApWrite (addr : BitVec 2) (parity : Bool)
  deriving DecidableEq, Repr

/-- The words an instruction is read from: a command word with its `wdata` on the command port, or a header byte on the
wire (30_encoding.md, its opening: two encodings). -/
inductive Words where
  | command (cmd : Byte) (wdata : Word)
  | header (hdr : Byte)
  deriving DecidableEq, Repr

end Sys2Proof
end

