-- ==== Sys2Proof/WellFormed.lean ====
section
/-!
DEFINITION. Which instructions are well formed. A command's fields admit every value (41_codec.md rule R78: all 16 input
combinations are legal). A header's parity bit must be the one the opcode table names ("must equal
hdr[1]^hdr[2]^hdr[3]^hdr[4]"; 30_encoding.md rule R54: with a wrong parity bit it is not a header).
-/

namespace Sys2Proof

def WellFormed : Instr → Bool
  | .dpr _ _ => true
  | .dpw _ _ => true
  | .apr _ _ => true
  | .apw _ _ => true
  | .lineReset _ => true
  | .switchToSwd _ => true
  | .connect _ => true
  | .hdrDpRead a p => p == Machine.headerParity false true a
  | .hdrDpWrite a p => p == Machine.headerParity false false a
  | .hdrApRead a p => p == Machine.headerParity true true a
  | .hdrApWrite a p => p == Machine.headerParity true false a

end Sys2Proof
end

