-- ==== Sys2Proof/Decode.lean ====
section
/-!
DEFINITION. The decoder, total on any words and rejecting by name, and the encoder (30_encoding.md rules R49 to R54, R61).
The command port and the wire are two encodings: a byte on the command port is decoded by `decodeCommand`, a byte in a
header frame by `decodeHeader`.
-/

namespace Sys2Proof

/-- Why words are no instruction. The first three are the reserved command words of 30_encoding.md rule R51, in its order
of bullets; the machine answers them with BAD_COMMAND (43_line.md rule R107). The others say why a byte is not a header (R54). -/
inductive DecodeError where
  | reservedOp
  | reservedBit
  | lineControlField
  | headerStart
  | headerStop
  | headerPark
  | headerBadParity
  deriving DecidableEq, Repr

/-- The command field `op`, cmd[7:5] (10_state.md rule R13). -/
def cmdOp (c : Byte) : BitVec 3 := c.extractLsb' 5 3

/-- The field `addr2_3`, at bits 4:3 of a command and of a header (30_encoding.md rules R49 and R53). -/
def fieldAddr (c : Byte) : BitVec 2 := c.extractLsb' 3 2

/-- The field `RnW`, bit 2 of both. -/
def fieldRnW (c : Byte) : Bool := c.getLsbD 2

/-- The field `APnDP`, bit 1 of both. -/
def fieldAPnDP (c : Byte) : Bool := c.getLsbD 1

/-- The TRANSFER that a request names (30_encoding.md rule R50). -/
def transferInstr (apndp rnw : Bool) (addr : BitVec 2) (d : Word) : Instr :=
  match apndp, rnw with
  | false, true => .dpr addr d
  | false, false => .dpw addr d
  | true, true => .apr addr d
  | true, false => .apw addr d

/-- The header that a request names. -/
def headerInstr (apndp rnw : Bool) (addr : BitVec 2) (parity : Bool) : Instr :=
  match apndp, rnw with
  | false, true => .hdrDpRead addr parity
  | false, false => .hdrDpWrite addr parity
  | true, true => .hdrApRead addr parity
  | true, false => .hdrApWrite addr parity

/-- A command word as the engine decodes it at acceptance (30_encoding.md rules R49 to R51). -/
def decodeCommand (c : Byte) (d : Word) : Except DecodeError Instr :=
  if cmdOp c = 0b000#3 then
    if c.getLsbD 0 then .error .reservedBit
    else .ok (transferInstr (fieldAPnDP c) (fieldRnW c) (fieldAddr c) d)
  else if cmdOp c = 0b001#3 then
    if c.extractLsb' 0 5 = 0#5 then .ok (.lineReset d) else .error .lineControlField
  else if cmdOp c = 0b010#3 then
    if c.extractLsb' 0 5 = 0#5 then .ok (.switchToSwd d) else .error .lineControlField
  else if cmdOp c = 0b011#3 then
    if c.extractLsb' 0 5 = 0#5 then .ok (.connect d) else .error .lineControlField
  else .error .reservedOp

/-- A header byte read as the pattern `1 0 P A3 A2 RnW APnDP 1` with its parity checked (30_encoding.md rules R53, R54). -/
def decodeHeader (h : Byte) : Except DecodeError Instr :=
  if h.getLsbD 0 = false then .error .headerStart
  else if h.getLsbD 6 then .error .headerStop
  else if h.getLsbD 7 = false then .error .headerPark
  else if h.getLsbD 5 = Machine.headerParity (fieldAPnDP h) (fieldRnW h) (fieldAddr h) then
    .ok (headerInstr (fieldAPnDP h) (fieldRnW h) (fieldAddr h) (h.getLsbD 5))
  else .error .headerBadParity

/-- The decoder. -/
def decode : Words → Except DecodeError Instr
  | .command c d => decodeCommand c d
  | .header h => decodeHeader h

/-- The encoder, from the same tables. -/
def encode : Instr → Words
  | .dpr a d => .command (Machine.transferByte false true a) d
  | .dpw a d => .command (Machine.transferByte false false a) d
  | .apr a d => .command (Machine.transferByte true true a) d
  | .apw a d => .command (Machine.transferByte true false a) d
  | .lineReset d => .command Machine.lineResetByte d
  | .switchToSwd d => .command Machine.switchToSwdByte d
  | .connect d => .command Machine.connectByte d
  | .hdrDpRead a p => .header (Machine.headerByte false true a p)
  | .hdrDpWrite a p => .header (Machine.headerByte false false a p)
  | .hdrApRead a p => .header (Machine.headerByte true true a p)
  | .hdrApWrite a p => .header (Machine.headerByte true false a p)

/-- A reserved command word, in the words of 30_encoding.md rule R51. -/
def reservedCommand (c : Byte) : Bool :=
  decide (4 ≤ (cmdOp c).toNat)
    || (cmdOp c == 0b000#3 && c.getLsbD 0)
    || ((cmdOp c == 0b001#3 || cmdOp c == 0b010#3 || cmdOp c == 0b011#3) && c.extractLsb' 0 5 != 0#5)

/-- The words of an instruction whose table bits are `w` (bit 0 the least significant bit of the first word; bits at and above
`nbits` are zero): the first byte, then for a command its `wdata`. A lone byte that is a header of 30_encoding.md rule R54
is read as one: each has bit 7 set, so on the command port it is a reserved word and no instruction is lost (log 11). -/
def tableWords (nbits w : Nat) : Words :=
  let v := w % 2 ^ nbits
  match decide (v < 256), decodeHeader (BitVec.ofNat 8 v) with
  | true, .ok _ => .header (BitVec.ofNat 8 v)
  | _, _ => .command (BitVec.ofNat 8 v) (BitVec.ofNat 32 (v / 256))

/-- The instruction the decoder reads from the table's bits `w`. -/
def decodeTableWord (nbits w : Nat) : Option Instr :=
  if nbits < 8 then none
  else
    match decode (tableWords nbits w) with
    | .ok i => some i
    | .error _ => none

end Sys2Proof
end

