-- ==== Sys2Proof/Config.lean ====
section
/-!
DEFINITION. What the spec leaves to others: the free values (draws) of the target, the peripheral and the host, and
the OPEN parameters. Every constant here is opaque, so no proof can see a value of it.
-/

namespace Sys2Proof

/-- One event of the wire trace (10_state.md rule R27). -/
inductive WireEvent where
  /-- One clock cycle: the bit the host drives and the bit it samples. -/
  | cycle (out inp : Bool)
  /-- A pause between two exchanges, of any length, none included (40_transport.md rule R76; log 18). -/
  | gap
  deriving DecidableEq, Repr

/-- The registers the host may read on the response port (10_state.md rule R21). -/
inductive RspReg where
  | outcome
  | ack
  | rdata
  | rpar
  deriving DecidableEq, Repr

/-- The lines the host drives towards the block for one engine move (10_state.md rules R20 and R21;
`teardown` is the release of 70_reset_and_hazards.md rule R124). -/
structure PortIn where
  cmdValid : Bool
  cmd      : Byte
  wdata    : Word
  rspTake  : Bool
  /-- The response register the host reads now, if any. -/
  read     : Option RspReg
  teardown : Bool
  deriving DecidableEq, Repr, Inhabited

/-- Every line idle: nothing offered, taken, read or torn down. -/
def PortIn.idle : PortIn :=
  { cmdValid := false, cmd := 0, wdata := 0, rspTake := false, read := none, teardown := false }

/-- The peripheral's 32-bit registers by the names the source gives them (10_state.md rule R23). -/
inductive PeriphRegName where
  | enable
  | control0
  | control1
  | status
  | dataIo
  | peek
  deriving DecidableEq, Repr, Inhabited

/-- A field of a register: its lowest bit and its width. -/
structure BitField where
  lo    : Nat
  width : Nat
  deriving DecidableEq, Repr, Inhabited

/-- A register of the peripheral: its byte offset from the block's base, its bit layout (every field, in the order of the
peripheral's own specification) and its reset value (92_eei_decisions.md D35). -/
structure PeriphReg where
  offset     : Nat
  layout     : List BitField
  resetValue : Word
  deriving DecidableEq, Repr, Inhabited

/-- A field that the transport uses, and the register that holds it: the spec names such fields but not where they stand. -/
structure FieldPlace where
  reg   : PeriphRegName
  field : BitField
  deriving DecidableEq, Repr, Inhabited

/-- The whole register map of the peripheral (10_state.md rule R23, 20_memory.md rule R33, 60_exceptions.md rule R118, 92_eei_decisions.md D35):
the base address, each register with its offset, bit layout and reset value, where the fields that the spec names stand, and the register
writes of 70_reset_and_hazards.md rule R123, step 3. -/
structure PeriphRegmap where
  base       : Nat
  enable     : PeriphReg
  control0   : PeriphReg
  control1   : PeriphReg
  status     : PeriphReg
  dataIo     : PeriphReg
  peek       : PeriphReg
  /-- The bit that enables the peripheral (rule R123). -/
  enableFlag : FieldPlace
  /-- The bit-order setting (10_state.md rule R25). -/
  bitOrder   : FieldPlace
  /-- The busy flag (40_transport.md rule R69). -/
  busy       : FieldPlace
  txLevel    : FieldPlace
  /-- The receive-FIFO-level field where this peripheral has it: the position of the erratum (rule R23). -/
  rxLevel    : FieldPlace
  /-- Where a pushed word and its length are packed (40_transport.md rule R70). -/
  dataWord   : FieldPlace
  dataLen    : FieldPlace
  initWrites : List (PeriphRegName × Word)
  deriving DecidableEq, Repr, Inhabited

/-- The SPI link (92_eei_decisions.md D36). -/
structure SpiLink where
  clockHz       : Nat
  polarity      : Bool
  phase         : Bool
  useChipSelect : Bool
  outWiring     : Nat
  inWiring      : Nat
  deriving DecidableEq, Repr, Inhabited

namespace Config

/-- FREE VALUE (20_memory.md rule R46; log 2, DESIGN CHOICE of form, safe): the bit the target answers in a cycle. It may
depend on the draw's number, on the trace so far and on the bit the host drives. -/
opaque targetBit : Nat → List WireEvent → Bool → Bool

/-- FREE VALUE (40_transport.md rule R71, 93_implementation_defined.md I9; log 3, safe): what a raw received word holds
below the sampled field. -/
opaque rawPad : Nat → Word

/-- FREE VALUE (20_memory.md rule R46, 92_eei_decisions.md D34; log 26, DESIGN CHOICE, safe): what `hresp` holds at the H and Z positions of the
header frame, whose sampled bits no register receives. -/
opaque hrespDiscarded : Nat → BitVec 13

/-- FREE VALUE (40_transport.md rules R69 and R71, 70_reset_and_hazards.md rule R139; log 4, safe): whether the
peripheral, while busy, moves before the engine polls again. -/
opaque turnDraw : Nat → Bool

/-- FREE VALUE (70_reset_and_hazards.md rule R125, 92_eei_decisions.md D33; log 5, safe): the lines the host drives for
an engine move. -/
opaque hostDrives : Nat → PortIn

/-- OPEN parameter `PERIPH_REGMAP` (00_scope.md rule R6, 10_state.md rule R23; log 16). No step reads it: the machine sees the peripheral
through the abstract state of rule R26 (92_eei_decisions.md D35). -/
opaque periphRegmap : PeriphRegmap

/-- OPEN parameter `SPI_LINK` (00_scope.md rule R6; log 16): no rule of the model reads it. -/
opaque spiLink : SpiLink

/-- OPEN parameter `POLL_SLEEP` (00_scope.md rule R6, 60_exceptions.md rule R117; log 16): not modelled, nothing reads it. -/
opaque pollSleep : Nat

end Config

end Sys2Proof
end

