-- ==== Sys2Proof/Machine/State.lean ====
section
/-!
DEFINITION. The state of the machine as plain data, its faults and refusals, and the state after initialisation.
A register of 10_state.md rule R12 that is invalid (rules R10, R18, R29) is `none`: invalid is the spec's own state, in which
reading faults (log 1, DEDUCED, safe).
-/

namespace Sys2Proof.Machine

/-- The engine's states (10_state.md rule R14). -/
inductive EngineState where
  | ready
  | sendHeader
  | awaitAck
  | sendReadData
  | sendWriteData
  | sendIdle
  | sendSequence
  | done
  | faulted
  deriving DecidableEq, Repr

/-- The transport's bit order (10_state.md rule R25). -/
inductive BitOrder where
  | lsbFirst
  | msbFirst
  deriving DecidableEq, Repr

/-- A frame `v/L` of 00_scope.md rule R8: `word` holds v, `len` is L. A word waiting in the peripheral's transmit queue has
the same two parts (10_state.md rule R26). Lengths of 32 and more cannot be written down (log 25). -/
structure Frame where
  word : Word
  len  : BitVec 5
  deriving DecidableEq, Repr

/-- A slot of the transport's slot file (10_state.md rule R24); each part may be invalid (R29). -/
structure Slot where
  tx  : Option Word
  len : Option (BitVec 5)
  rx  : Option Word
  deriving DecidableEq, Repr

/-- A slot in which nothing is valid. -/
def Slot.invalid : Slot := { tx := none, len := none, rx := none }

/-- The word being shifted, with `k` of its `len` bits done (10_state.md rule R26). `got` has bit i equal to the bit sampled
in cycle i, for i < k: state that 40_transport.md rule R71 implies (log 6, DEDUCED, safe). -/
structure Shifter where
  word : Word
  len  : BitVec 5
  k    : Nat
  got  : Word
  deriving DecidableEq, Repr

/-- How far the exchange in progress has come in 40_transport.md rule R65 (log 6, DEDUCED, safe): not yet called, in the first
busy wait, or in the second. -/
inductive Phase where
  | call
  | waitPush
  | waitDone
  deriving DecidableEq, Repr

/-- Which agent moves in the next step (log 4, DESIGN CHOICE, safe). -/
inductive Turn where
  | engine
  | peripheral
  deriving DecidableEq, Repr

/-- The registers and slot parts that can be invalid, by name, for the fault that reading one raises. -/
inductive RegName where
  | cmd
  | wdata
  | hdr
  | hresp
  | ack
  | rdata
  | rpar
  | outcome
  | seq
  | seqIdx
  | slotTx
  | slotLen
  deriving DecidableEq, Repr

/-- Why the machine stops with a fault. Each is safe: the model stops where the spec says a model must, or where the spec
gives the hardware no way to go on. -/
inductive Fault where
  /-- A register or slot part that holds no value is read: "A model must fault on reading one, not return zero" (00_scope.md rule R10; 10_state.md
  rules R12, R19, R21; 92_eei_decisions.md D40; 93_implementation_defined.md I20). Raised by the host's read of the response port, and by an
  engine stage in a state no run reaches. Safe. -/
  | invalidRegister (r : RegName)
  /-- The host reads the response port while a command is in progress (10_state.md rule R21 allows the read only while
  `rsp_valid`; log 9). Raised by the step. Safe. -/
  | responseNotReadable
  /-- The capture finds fewer raw words than slots (40_transport.md rule R72). Raised by `captureBatch`. Safe. -/
  | captureShort
  /-- A raw word arrives at a full receive queue; the spec does not say what happens (log 7). Raised by `tick`. Safe. -/
  | rxOverflow
  /-- A (state, condition) pair that 42_engine.md rule R94 calls impossible (log 22). Raised by an engine stage. Safe. -/
  | impossibleTransition
  deriving DecidableEq, Repr

/-- Why the model gives a case no meaning. -/
inductive Refusal where
  /-- An instruction with no meaning yet. No arm of `exec` raises it. Safe. -/
  | notModelled (mnemonic : String)
  /-- An exchange with `bit_order = MSB_FIRST` (40_transport.md rule R67). Raised by `exchange`. Safe. -/
  | msbFirst
  /-- A frame of length 0 or over 24 (40_transport.md rule R66). Raised by `exchange` and `tick`. Safe. -/
  | frameLength
  /-- `EvenParity` with n > 32 (41_codec.md rule R80). Raised by `evenParity`. Safe. -/
  | parityWidth
  /-- A step after teardown (70_reset_and_hazards.md rule R124). Raised by the step. Safe. -/
  | afterTeardown
  /-- Teardown while a command is in progress, which 70_reset_and_hazards.md rule R124 calls not possible (log 10). Raised by
  the step. Safe. -/
  | teardownInProgress
  deriving DecidableEq, Repr

/-- The machine's state. INVENTORY.md, heading State, names the rule behind each field. -/
structure State where
  st       : EngineState
  cmd      : Option Byte
  wdata    : Option Word
  hdr      : Option Byte
  hresp    : Option (BitVec 13)
  ack      : Option (BitVec 3)
  rdata    : Option Word
  rpar     : Option Bool
  outcome  : Option (BitVec 3)
  seq      : Option (List (List Frame))
  seqIdx   : Option Nat
  /-- slot[0] to slot[3]. -/
  slots    : List Slot
  /-- The spec's `n`, the number of populated slots. -/
  count    : Nat
  bitOrder : BitOrder
  phase    : Phase
  txq      : List Frame
  shifter  : Option Shifter
  rxq      : List Word
  trace    : List WireEvent
  tornDown : Bool
  /-- The lines the host drives for the next engine move. -/
  port     : PortIn
  turn     : Turn
  /-- The number of the next free value: the model's own counter (log 2). -/
  draws    : Nat
  deriving DecidableEq, Repr

/-- The state after initialisation (10_state.md rule R29, 70_reset_and_hazards.md rule R123). The last fields but `trace` are the
model's own (log 21, DESIGN CHOICE, unsafe). -/
def State.reset : State :=
  { st := .ready, cmd := none, wdata := none, hdr := none, hresp := none, ack := none, rdata := none, rpar := none,
    outcome := none, seq := none, seqIdx := none,
    slots := [.invalid, .invalid, .invalid, .invalid], count := 0, bitOrder := .lsbFirst,
    phase := .call, txq := [], shifter := none, rxq := [], trace := [],
    tornDown := false, port := .idle, turn := .engine, draws := 0 }

end Sys2Proof.Machine
end

