-- ==== Sys2Proof/Machine/Flags.lean ====
section
/-!
DEFINITION. What stands in place of flags (10_state.md rule R17): parity, the ACK decoder and the outcome codes.
-/

namespace Sys2Proof.Machine

/-- The set bits of `w` below bit `n`. -/
def popBelow (w : Word) : Nat → Nat
  | 0 => 0
  | n + 1 => popBelow w n + (w.getLsbD n).toNat

/-- `popcount` of a 32-bit word (00_scope.md rule R7). -/
def popcount (w : Word) : Nat := popBelow w 32

/-- `EvenParity` (41_codec.md rule R80), refused for n > 32. -/
def evenParity (word : Word) (n : Nat) : Except Refusal Bool :=
  if n ≤ 32 then .ok (popcount (word &&& BitVec.ofNat 32 (2 ^ n - 1)) % 2 == 0)
  else .error .parityWidth

/-- `ParityBit` (41_codec.md rule R81). -/
def parityBit (w : Word) : Bool := popcount w % 2 == 1

/-- `ParityOk` (41_codec.md rule R82). -/
def parityOk (data : Word) (p : Bool) : Bool := (popcount data + p.toNat) % 2 == 0

/-- The kinds of ACK (41_codec.md rule R83). -/
inductive AckKind where
  | ok
  | wait
  | fault
  | unknown
  deriving DecidableEq, Repr

/-- `DecodeAck` (41_codec.md rule R83). -/
def decodeAck (b : BitVec 3) : AckKind :=
  if b = 0b001#3 then .ok
  else if b = 0b010#3 then .wait
  else if b = 0b100#3 then .fault
  else .unknown

/-- The outcome code of success (60_exceptions.md rule R108). -/
def okCode : BitVec 3 := 0

/-- The ways a command ends other than OK (60_exceptions.md rule R108). -/
inductive AbortCode where
  | wait
  | fault
  | unknownAck
  | parityMismatch
  | transportCapacity
  | badCommand
  deriving DecidableEq, Repr

/-- Their outcome codes (60_exceptions.md rule R108). -/
def AbortCode.code : AbortCode → BitVec 3
  | .wait => 1
  | .fault => 2
  | .unknownAck => 3
  | .parityMismatch => 4
  | .transportCapacity => 5
  | .badCommand => 6

/-- Where the engine goes on an abort (42_engine.md rule R86). -/
def AbortCode.next : AbortCode → EngineState
  | .wait => .sendIdle
  | .fault => .sendIdle
  | .unknownAck => .sendIdle
  | .parityMismatch => .sendIdle
  | .transportCapacity => .faulted
  | .badCommand => .faulted

end Sys2Proof.Machine
end

