-- ==== Sys2Proof/Machine/Frames.lean ====
section
/-!
DEFINITION. The implementation parameters with a value (00_scope.md rule R6), the frames of 30_encoding.md rule R55, and the
driver of each bit of a frame (rule R56). The exact counts are the spec's choices (log 15).
-/

namespace Sys2Proof.Machine

def fifoDepth : Nat := 4
def minFrameBits : Nat := 1
def maxFrameBits : Nat := 24
def ackOffset : Nat := 9
def hdrFrameBitsRead : BitVec 5 := 12
def hdrFrameBitsWrite : BitVec 5 := 13
def dataLoBits : BitVec 5 := 16
def dataHiBits : BitVec 5 := 17
def idleBits : BitVec 5 := 8
def connectRepeat : Nat := 2

/-- `JTAG_TO_SWD_SEQ` (00_scope.md rule R6; the spec supplies it from general knowledge, log 14). -/
def jtagToSwdSeq : Word := 0xE79E

/-- A length a frame may have (40_transport.md rule R66). -/
def frameLenOk (len : BitVec 5) : Bool :=
  decide (minFrameBits ≤ len.toNat) && decide (len.toNat ≤ maxFrameBits)

/-- The low `len` bits of a word, the others 0 (40_transport.md rule R70). -/
def lowBits (w : Word) (len : BitVec 5) : Word := w &&& BitVec.ofNat 32 (2 ^ len.toNat - 1)

/-- `HDR_R` or `HDR_W`: the header byte, its pad bits `HDR_PAD_VALUE` = 0. -/
def headerFrame (isRead : Bool) (hdr : Byte) : Frame :=
  { word := hdr.setWidth 32, len := if isRead then hdrFrameBitsRead else hdrFrameBitsWrite }

/-- `RD_LO` and `RD_HI`, the read fill. -/
def readFillFrames : List Frame := [⟨0xFFFF, dataLoBits⟩, ⟨0x1FFFF, dataHiBits⟩]

/-- `IDLE`. -/
def idleFrame : Frame := ⟨0, idleBits⟩

/-- `ONES24`. -/
def ones24 : Frame := ⟨0xFFFFFF, 24⟩

/-- `ONES8`. -/
def ones8 : Frame := ⟨0xFF, 8⟩

/-- `ZERO8`. -/
def zero8 : Frame := ⟨0, 8⟩

/-- `J2S`. -/
def j2s : Frame := ⟨jtagToSwdSeq, 16⟩

/-- The batch of a line reset (43_line.md rule R104). -/
def lineResetBatch : List Frame := [ones24, ones24, ones8, zero8]

/-- The batch of the JTAG-to-SWD switch (43_line.md rule R105). -/
def switchBatch : List Frame := [j2s]

/-- Who drives a bit of a frame (30_encoding.md rule R56). -/
inductive Driver where
  | host
  | target
  | turnaround
  deriving DecidableEq, Repr

/-- The frames of 30_encoding.md rule R55 by name. -/
inductive FrameKind where
  | hdrR
  | hdrW
  | rdLo
  | rdHi
  | wrLo
  | wrHi
  | idle
  | ones24
  | ones8
  | zero8
  | j2s
  deriving DecidableEq, Repr

/-- The driver of bit `i` of a frame; `afterTarget` says that the previous frame on the wire ended on a target-driven bit
(30_encoding.md rule R56, whose last clause is general knowledge of the spec, log 14). Labels.lean computes it (`afterTargetBit`). -/
def driver (kind : FrameKind) (afterTarget : Bool) (i : Nat) : Driver :=
  match kind with
  | .hdrR => if i < 8 then .host else if i = 8 then .turnaround else .target
  | .hdrW => if i < 8 then .host else if i = 8 then .turnaround else if i < 12 then .target else .turnaround
  | .rdLo => .target
  | .rdHi => .target
  | .idle => if afterTarget && i == 0 then .turnaround else .host
  | .wrLo => .host
  | .wrHi => .host
  | .ones24 => .host
  | .ones8 => .host
  | .zero8 => .host
  | .j2s => .host

end Sys2Proof.Machine
end

