-- ==== Sys2Proof/Machine/Operands.lean ====
section
/-!
DEFINITION. The operand forms: the fields of a command (30_encoding.md rule R61), the register offset they name
(20_memory.md rule R32), the ACK and data fields of sampled words (rules R57, R58) and the write frames (R59).
-/

namespace Sys2Proof.Machine

/-- The byte offset of the register a TRANSFER names (20_memory.md rule R32). -/
def registerOffset (addr : BitVec 2) : Nat := 4 * addr.toNat

/-- The H and Z positions of a header frame (30_encoding.md rule R56): bits 0 to 8, and bit 12 of `HDR_W`. -/
def discardedBits (isRead : Bool) : BitVec 13 := if isRead then 0x01FF else 0x11FF

/-- The header response register from the header frame's sampled word `s` (42_engine.md rule R87): the bits at T positions, the ACK, are the
sampled ones, and `s[12] = 0` of a 12-bit frame stands. 20_memory.md rule R46 and 92_eei_decisions.md D34 say that no register receives a bit
sampled at an H or Z position, where R87 assigns the whole word; there the register holds the free value `free`, which no rule reads (log 26,
DESIGN CHOICE). -/
def headerResponse (isRead : Bool) (s : Word) (free : BitVec 13) : BitVec 13 :=
  (s.setWidth 13 &&& ~~~discardedBits isRead) ||| (free &&& discardedBits isRead)

/-- The ACK field, `hresp[11:9]` (30_encoding.md rule R57). -/
def ackField (h : BitVec 13) : BitVec 3 := h.extractLsb' ackOffset 3

/-- The received data word (30_encoding.md rule R58). -/
def readWord (s1 s2 : Word) : Word := (s1 &&& 0xFFFF) ||| ((s2 &&& 0xFFFF) <<< 16)

/-- The received parity bit (30_encoding.md rule R58). -/
def readParity (s2 : Word) : Bool := s2.getLsbD 16

/-- `WR_LO` and `WR_HI` (30_encoding.md rule R59). -/
def writeFrames (d : Word) : List Frame :=
  [⟨d &&& 0xFFFF, dataLoBits⟩, ⟨(d >>> 16) ||| ((if parityBit d then 1#32 else 0#32) <<< 16), dataHiBits⟩]

/-- The header byte of the request in a command word (42_engine.md rule R87). -/
def headerOfCommand (c : Byte) : Byte := buildHeader (fieldAPnDP c) (fieldRnW c) (fieldAddr c)

/-- A command word that is a TRANSFER (30_encoding.md rules R50, R51). -/
def isTransfer (c : Byte) : Bool := cmdOp c == 0b000#3 && !c.getLsbD 0

/-- A command word that uses `wdata`: a TRANSFER with RnW = 0 (10_state.md rule R12, 30_encoding.md rule R49). -/
def usesWdata (c : Byte) : Bool := isTransfer c && !fieldRnW c

end Sys2Proof.Machine
end

