-- ==== Sys2Proof/Machine/Ops.lean ====
section
/-!
DEFINITION. The named operations over the registers: what the ports show, acceptance, the abort path (this machine's taking
of an exception, 60_exceptions.md rule R112) and the response handshake (its return, rule R113).
-/

namespace Sys2Proof.Machine

/-- `busy` (10_state.md rule R26). -/
def State.busy (s : State) : Bool := !s.txq.isEmpty || s.shifter.isSome

/-- `tx_level` (10_state.md rule R26): the word in the shifter does not count. -/
def State.txLevel (s : State) : Nat := s.txq.length

/-- `rx_level` (10_state.md rule R26). -/
def State.rxLevel (s : State) : Nat := s.rxq.length

/-- `cmd_ready` (10_state.md rule R20). -/
def State.cmdReady (s : State) : Bool := s.st == .ready

/-- `rsp_valid` (10_state.md rule R21). -/
def State.rspValid (s : State) : Bool := s.st == .done || s.st == .faulted

/-- A command is in progress. -/
def State.inProgress (s : State) : Bool := !s.cmdReady && !s.rspValid

/-- A register's value, or the fault that reading it while invalid raises (00_scope.md rule R10). -/
def validOr {α : Type} (r : RegName) (v : Option α) : Except Fault α :=
  match v with
  | some x => .ok x
  | none => .error (.invalidRegister r)

/-- What a read of `wdata` gives. The register holds the word latched with every command (42_engine.md rule R85), but it is valid only
for a TRANSFER with RnW = 0, and reading it outside that time faults (10_state.md rule R12; log 19). -/
def State.readWdata (s : State) : Except Fault Word :=
  match s.cmd with
  | none => .error (.invalidRegister .wdata)
  | some c => if usesWdata c then validOr .wdata s.wdata else .error (.invalidRegister .wdata)

/-- The command (c, d) is the one latched at acceptance (42_engine.md rule R85). Its data counts only where `wdata` is valid, so a command
that ignores its data is the one latched whatever the data (30_encoding.md rule R49). -/
def State.latched (s : State) (c : Byte) (d : Word) : Bool :=
  s.cmd == some c && (!usesWdata c || s.wdata == some d)

/-- The data word of the latched command `c`: read from `wdata` where that is valid. No rule reads the word of another command
(30_encoding.md rule R49); the instruction's operand is then 0 and no meaning uses it (log 19). -/
def State.requestData (s : State) (c : Byte) : Except Fault Word :=
  if usesWdata c then s.readWdata else .ok 0

/-- The register that a read of the response port names (10_state.md rule R21). -/
def rspRegName : RspReg → RegName
  | .outcome => .outcome
  | .ack => .ack
  | .rdata => .rdata
  | .rpar => .rpar

/-- What the response port gives the host that reads register `r` (10_state.md rules R19 and R21). It is readable from the
command's end to the next acceptance (95_test_vectors.md section 3), never in mid-command (log 9, DEDUCED, safe). -/
def State.rspRead (s : State) (r : RspReg) : Except Fault Word :=
  if s.inProgress then .error .responseNotReadable
  else
    match r with
    | .outcome => (validOr .outcome s.outcome).map (·.setWidth 32)
    | .ack => (validOr .ack s.ack).map (·.setWidth 32)
    | .rdata => validOr .rdata s.rdata
    | .rpar => (validOr .rpar s.rpar).map (fun b => if b then 1 else 0)

/-- Acceptance makes the results of the last command invalid (10_state.md rule R18). -/
def State.invalidateResults (s : State) : State :=
  { s with hdr := none, hresp := none, ack := none, rdata := none, rpar := none, outcome := none,
           seq := none, seqIdx := none }

/-- Acceptance latches the command and its `wdata`, whatever the command (42_engine.md rule R85, 43_line.md rule R107). When the latched
word may be read is `State.readWdata`'s matter. -/
def State.accept (s : State) (c : Byte) (d : Word) : State :=
  { s.invalidateResults with cmd := some c, wdata := some d }

/-- `abort(code)` (42_engine.md rule R86). -/
def State.abort (s : State) (e : AbortCode) : State :=
  { s with outcome := some e.code, st := e.next }

/-- The host takes the response (42_engine.md rule R93). -/
def State.takeResponse (s : State) : State := { s with st := .ready }

/-- Acceptance of a TRANSFER (42_engine.md rule R85). -/
def State.acceptTransfer (s : State) (c : Byte) (d : Word) : State :=
  { s.accept c d with st := .sendHeader }

/-- Acceptance of a line-control command (42_engine.md rule R85). -/
def State.acceptSequence (s : State) (c : Byte) (d : Word) (batches : List (List Frame)) : State :=
  { s.accept c d with seq := some batches, seqIdx := some 0, st := .sendSequence }

/-- Acceptance of a reserved command word (43_line.md rule R107). -/
def State.acceptReserved (s : State) (c : Byte) (d : Word) : State :=
  (s.accept c d).abort .badCommand

/-- The header byte the engine has to send now, if it is in SEND_HEADER with a TRANSFER latched (42_engine.md rule R87). -/
def State.headerDue (s : State) : Option Byte :=
  match s.st, s.cmd with
  | .sendHeader, some c => if isTransfer c then some (headerOfCommand c) else none
  | _, _ => none

end Sys2Proof.Machine
end

