-- ==== Sys2Proof/Machine/Transport.lean ====
section
/-!
DEFINITION. The Bit Transport's exchange (40_transport.md rules R65 to R73), cut at its two busy waits: `phase` says where it
stands, and each call of `exchange` goes on from there until the next wait or the end.
-/

namespace Sys2Proof.Machine

/-- How one call of `exchange` ends. -/
inductive Exchanged where
  /-- No meaning (rules R66, R67). -/
  | refused (r : Refusal)
  /-- The model stops (rules R10, R72). -/
  | fault (f : Fault)
  /-- CAPACITY (rule R68). -/
  | capacity (s : State)
  /-- The exchange waits for the peripheral (rule R69). -/
  | pending (s : State)
  /-- OK, with the captured words in slot order (rule R72). -/
  | done (s : State) (samples : List Word)
  deriving DecidableEq, Repr

/-- The engine writes the frames into the first slots (10_state.md rule R24). -/
def populateSlots : List Frame → List Slot → List Slot
  | f :: fs, sl :: rest => { sl with tx := some f.word, len := some f.len } :: populateSlots fs rest
  | _, slots => slots

/-- The batch is written into the slot file if the slot file can hold it (log 8). -/
def State.populate (s : State) (fs : List Frame) : State :=
  if fs.length ≤ fifoDepth then { s with slots := populateSlots fs s.slots, count := fs.length } else s

/-- What the first `n` slots push onto the transmit queue (rule R70). -/
def slotFrames : Nat → List Slot → Except Fault (List Frame)
  | 0, _ => .ok []
  | _ + 1, [] => .error (.invalidRegister .slotTx)
  | n + 1, sl :: rest =>
    match sl.tx, sl.len with
    | none, _ => .error (.invalidRegister .slotTx)
    | _, none => .error (.invalidRegister .slotLen)
    | some w, some len => (slotFrames n rest).map (⟨lowBits w len, len⟩ :: ·)

/-- From the push to the capture, the `rx` of the populated slots is invalid (10_state.md rule R24; log 8, DEDUCED). -/
def invalidateRx : Nat → List Slot → List Slot
  | n + 1, sl :: rest => { sl with rx := none } :: invalidateRx n rest
  | _, slots => slots

/-- After the first wait: a Gap in the trace and the batch pushed in slot order (rules R65, R70, R76). -/
def pushBatch (s : State) : Exchanged :=
  if s.count = 0 then .done { s with phase := .call } []
  else
    match slotFrames s.count s.slots with
    | .error f => .fault f
    | .ok ws =>
      .pending { s with trace := s.trace ++ [.gap], txq := s.txq ++ ws,
                        slots := invalidateRx s.count s.slots, phase := .waitDone }

/-- The capture shift (rule R73). -/
def captureShift (raw : Word) (len : BitVec 5) : Word := raw >>> (32 - len.toNat)

/-- One raw word for each of the first `n` slots, in slot order (rule R72): the slots, the raw words left, the samples. -/
def captureSlots : Nat → List Slot → List Word → Except Fault (List Slot × List Word × List Word)
  | 0, slots, raws => .ok (slots, raws, [])
  | _ + 1, [], _ => .error .captureShort
  | _ + 1, _ :: _, [] => .error .captureShort
  | n + 1, sl :: rest, raw :: raws =>
    match sl.len with
    | none => .error (.invalidRegister .slotLen)
    | some len =>
      match captureSlots n rest raws with
      | .error f => .error f
      | .ok (slots, left, samples) =>
        .ok ({ sl with rx := some (captureShift raw len) } :: slots, left, captureShift raw len :: samples)

/-- After the second wait: the capture (rule R72). -/
def captureBatch (s : State) : Exchanged :=
  match captureSlots s.count s.slots s.rxq with
  | .error f => .fault f
  | .ok (slots, left, samples) => .done { s with slots := slots, rxq := left, phase := .call } samples

/-- `Exchange(frames)` (rule R65): at call time the checks of R67, R66 and R68 in that order; then the two busy waits (R69). -/
def exchange (fs : List Frame) (s : State) : Exchanged :=
  match s.phase with
  | .call =>
    if s.bitOrder = .msbFirst then .refused .msbFirst
    else if fs.all (fun f => frameLenOk f.len) = false then .refused .frameLength
    else if fs.length > fifoDepth - s.txLevel ∨ fs.length > fifoDepth - s.rxLevel then .capacity (s.populate fs)
    else if s.busy then .pending { s.populate fs with phase := .waitPush }
    else pushBatch (s.populate fs)
  | .waitPush => if s.busy then .pending s else pushBatch s
  | .waitDone => if s.busy then .pending s else captureBatch s

/-- What the engine does with an exchange's end: a capacity error aborts (42_engine.md rules R86 to R92), a wait holds the engine
in its state (R94), and a finished exchange goes on with its samples. -/
def onExchange (x : Exchanged) (k : State → List Word → Host.Outcome State Fault Refusal) :
    Host.Outcome State Fault Refusal :=
  match x with
  | .refused r => .refused r
  | .fault f => .fault f
  | .capacity t => .next (t.abort .transportCapacity)
  | .pending t => .next t
  | .done t samples => k t samples

end Sys2Proof.Machine
end

