-- ==== Sys2Proof/Machine/Engine.lean ====
section
/-!
DEFINITION. The engine's states, one definition per state rule (42_engine.md rules R87 to R92, 43_line.md rule R103), and the two
paths through them. A (state, command) pair that 42_engine.md rule R94 calls impossible faults (log 22, safe).
-/

namespace Sys2Proof.Machine

/-- SEND_HEADER (42_engine.md rule R87), for the header byte `hdr`. -/
def sendHeader (isRead : Bool) (hdr : Byte) (s : State) : Host.Outcome State Fault Refusal :=
  onExchange (exchange [headerFrame isRead hdr] { s with hdr := some hdr }) fun t samples =>
    match samples with
    | [x] => .next { t with hresp := some (headerResponse isRead x (Config.hrespDiscarded t.draws)), st := .awaitAck }
    | _ => .fault .captureShort

/-- AWAIT_ACK (42_engine.md rule R88). -/
def awaitAck (isRead : Bool) (s : State) : Host.Outcome State Fault Refusal :=
  match validOr .hresp s.hresp with
  | .error f => .fault f
  | .ok h =>
    let t := { s with ack := some (ackField h) }
    match decodeAck (ackField h) with
    | .ok => .next { t with st := if isRead then .sendReadData else .sendWriteData }
    | .wait => .next (t.abort .wait)
    | .fault => .next (t.abort .fault)
    | .unknown => .next (t.abort .unknownAck)

/-- SEND_READ_DATA (42_engine.md rule R89). -/
def sendReadData (s : State) : Host.Outcome State Fault Refusal :=
  onExchange (exchange readFillFrames s) fun t samples =>
    match samples with
    | [s1, s2] =>
      let u := { t with rdata := some (readWord s1 s2), rpar := some (readParity s2) }
      if parityOk (readWord s1 s2) (readParity s2) then .next { u with outcome := some okCode, st := .sendIdle }
      else .next (u.abort .parityMismatch)
    | _ => .fault .captureShort

/-- SEND_WRITE_DATA (42_engine.md rule R91): it reads `wdata`; the samples are discarded. -/
def sendWriteData (s : State) : Host.Outcome State Fault Refusal :=
  match s.readWdata with
  | .error f => .fault f
  | .ok d =>
    onExchange (exchange (writeFrames d) s) fun t _ =>
      .next { t with outcome := some okCode, st := .sendIdle }

/-- SEND_IDLE (42_engine.md rule R92); the sample is discarded. -/
def sendIdle (s : State) : Host.Outcome State Fault Refusal :=
  onExchange (exchange [idleFrame] s) fun t _ =>
    match validOr .outcome t.outcome with
    | .error f => .fault f
    | .ok o => .next { t with st := if o = okCode then .done else .faulted }

/-- SEND_SEQUENCE (43_line.md rule R103); the samples are discarded. -/
def sendSequence (s : State) : Host.Outcome State Fault Refusal :=
  match s.seq, s.seqIdx with
  | none, _ => .fault (.invalidRegister .seq)
  | _, none => .fault (.invalidRegister .seqIdx)
  | some batches, some k =>
    match batches[k]? with
    | none => .fault .impossibleTransition
    | some batch =>
      onExchange (exchange batch s) fun t _ =>
        if k + 1 = batches.length then .next { t with seqIdx := some (k + 1), outcome := some okCode, st := .done }
        else .next { t with seqIdx := some (k + 1) }

/-- The stage of a TRANSFER in progress. -/
def transferStage (apndp rnw : Bool) (addr : BitVec 2) (s : State) : Host.Outcome State Fault Refusal :=
  match s.st with
  | .ready => .next s
  | .sendHeader => sendHeader rnw (buildHeader apndp rnw addr) s
  | .awaitAck => awaitAck rnw s
  | .sendReadData => if rnw then sendReadData s else .fault .impossibleTransition
  | .sendWriteData => if rnw then .fault .impossibleTransition else sendWriteData s
  | .sendIdle => sendIdle s
  | .sendSequence => .fault .impossibleTransition
  | .done => .next s
  | .faulted => .next s

/-- One engine transition of a TRANSFER (log 12): accepted in READY (42_engine.md rule R85), taken through its next stage while it
is the command in progress, and without effect otherwise (10_state.md rule R20). -/
def runTransfer (apndp rnw : Bool) (addr : BitVec 2) (d : Word) (s : State) : Host.Outcome State Fault Refusal :=
  if s.st = .ready then .next (s.acceptTransfer (transferByte apndp rnw addr) d)
  else if s.latched (transferByte apndp rnw addr) d then transferStage apndp rnw addr s
  else .next s

/-- The stage of a line-control command in progress. -/
def sequenceStage (s : State) : Host.Outcome State Fault Refusal :=
  match s.st with
  | .ready => .next s
  | .sendSequence => sendSequence s
  | .done => .next s
  | .faulted => .next s
  | .sendHeader => .fault .impossibleTransition
  | .awaitAck => .fault .impossibleTransition
  | .sendReadData => .fault .impossibleTransition
  | .sendWriteData => .fault .impossibleTransition
  | .sendIdle => .fault .impossibleTransition

/-- One engine transition of a line-control command, as `runTransfer`. -/
def runSequence (c : Byte) (batches : List (List Frame)) (d : Word) (s : State) : Host.Outcome State Fault Refusal :=
  if s.st = .ready then .next (s.acceptSequence c d batches)
  else if s.latched c d then sequenceStage s
  else .next s

/-- The header byte `hdr` on the wire: sent when it is the header due, and without effect otherwise (log 11; the engine
never produces another, 30_encoding.md rule R54). -/
def runHeader (isRead : Bool) (hdr : Byte) (s : State) : Host.Outcome State Fault Refusal :=
  if s.headerDue = some hdr then sendHeader isRead hdr s else .next s

end Sys2Proof.Machine
end

