-- ==== Sys2Proof/Machine/Header.lean ====
section
/-!
DEFINITION. The meanings of the four header rows: the engine sends this byte in SEND_HEADER (30_encoding.md rule R53,
42_engine.md rule R87; log 11).
-/

namespace Sys2Proof.Machine

/-- HDR_DP_READ, the header DPR sends. -/
def execHdrDpRead (addr : BitVec 2) (parity : Bool) (s : State) : Host.Outcome State Fault Refusal :=
  runHeader true (headerByte false true addr parity) s

/-- HDR_DP_WRITE, the header DPW sends. -/
def execHdrDpWrite (addr : BitVec 2) (parity : Bool) (s : State) : Host.Outcome State Fault Refusal :=
  runHeader false (headerByte false false addr parity) s

/-- HDR_AP_READ, the header APR sends. -/
def execHdrApRead (addr : BitVec 2) (parity : Bool) (s : State) : Host.Outcome State Fault Refusal :=
  runHeader true (headerByte true true addr parity) s

/-- HDR_AP_WRITE, the header APW sends. -/
def execHdrApWrite (addr : BitVec 2) (parity : Bool) (s : State) : Host.Outcome State Fault Refusal :=
  runHeader false (headerByte true false addr parity) s

end Sys2Proof.Machine
end

