-- ==== Sys2Proof/Machine/Line.lean ====
section
/-!
DEFINITION. The meanings of the three line-control instructions (43_line.md rules R104 to R106).
-/

namespace Sys2Proof.Machine

/-- The sequence of LINE_RESET (43_line.md rule R104). -/
def lineResetSeq : List (List Frame) := [lineResetBatch]

/-- The sequence of SWITCH_TO_SWD (43_line.md rule R105). -/
def switchSeq : List (List Frame) := [switchBatch]

/-- The sequence of CONNECT (43_line.md rule R106): reset, switch, reset, `CONNECT_REPEAT` times. -/
def connectSeq : List (List Frame) :=
  (List.replicate connectRepeat [lineResetBatch, switchBatch, lineResetBatch]).flatten

/-- LINE_RESET (43_line.md rule R104). -/
def execLineReset (d : Word) (s : State) : Host.Outcome State Fault Refusal :=
  runSequence lineResetByte lineResetSeq d s

/-- SWITCH_TO_SWD (43_line.md rule R105). -/
def execSwitchToSwd (d : Word) (s : State) : Host.Outcome State Fault Refusal :=
  runSequence switchToSwdByte switchSeq d s

/-- CONNECT (43_line.md rule R106). -/
def execConnect (d : Word) (s : State) : Host.Outcome State Fault Refusal :=
  runSequence connectByte connectSeq d s

end Sys2Proof.Machine
end

