-- ==== Sys2Proof/Machine/Transfer.lean ====
section
/-!
DEFINITION. The meanings of the four TRANSFER instructions (42_engine.md rules R99 to R102).
-/

namespace Sys2Proof.Machine

/-- DPR (42_engine.md rule R99). -/
def execDpr (addr : BitVec 2) (d : Word) (s : State) : Host.Outcome State Fault Refusal :=
  runTransfer false true addr d s

/-- DPW (42_engine.md rule R100). -/
def execDpw (addr : BitVec 2) (d : Word) (s : State) : Host.Outcome State Fault Refusal :=
  runTransfer false false addr d s

/-- APR (42_engine.md rule R101): one packet; what the target posts is the target's (rule R98). -/
def execApr (addr : BitVec 2) (d : Word) (s : State) : Host.Outcome State Fault Refusal :=
  runTransfer true true addr d s

/-- APW (42_engine.md rule R102). -/
def execApw (addr : BitVec 2) (d : Word) (s : State) : Host.Outcome State Fault Refusal :=
  runTransfer true false addr d s

end Sys2Proof.Machine
end

