-- ==== Sys2Proof/Machine/Dispatch.lean ====
section
/-!
DEFINITION. The dispatch: one arm per constructor of Instr, one direct call of its meaning.
-/

namespace Sys2Proof.Machine

def exec (i : Instr) (s : State) : Host.Outcome State Fault Refusal :=
  match i with
  | .dpr a d => Sys2Proof.Machine.execDpr a d s
  | .dpw a d => Sys2Proof.Machine.execDpw a d s
  | .apr a d => Sys2Proof.Machine.execApr a d s
  | .apw a d => Sys2Proof.Machine.execApw a d s
  | .lineReset d => Sys2Proof.Machine.execLineReset d s
  | .switchToSwd d => Sys2Proof.Machine.execSwitchToSwd d s
  | .connect d => Sys2Proof.Machine.execConnect d s
  | .hdrDpRead a p => Sys2Proof.Machine.execHdrDpRead a p s
  | .hdrDpWrite a p => Sys2Proof.Machine.execHdrDpWrite a p s
  | .hdrApRead a p => Sys2Proof.Machine.execHdrApRead a p s
  | .hdrApWrite a p => Sys2Proof.Machine.execHdrApWrite a p s

end Sys2Proof.Machine
end

