-- ==== Sys2Proof/Machine/Peripheral.lean ====
section
/-!
DEFINITION. The peripheral's own steps (40_transport.md rule R71): it takes a word into its shifter, shifts it out one bit a
step, and pushes what it sampled onto the receive queue.
-/

namespace Sys2Proof.Machine

/-- The sampled word with bit `k` set to `b` (bits from k up are still 0). -/
def withSample (got : Word) (k : Nat) (b : Bool) : Word :=
  got ||| ((if b then 1#32 else 0#32) <<< k)

/-- The raw received word: `raw[32-L+i] = b_i`, and the bits below hold the draw `pad` (rule R71). -/
def rawWord (len : BitVec 5) (got pad : Word) : Word :=
  (got <<< (32 - len.toNat)) ||| (pad &&& BitVec.ofNat 32 (2 ^ (32 - len.toNat) - 1))

/-- One clock cycle of the word in the shifter. After its last cycle the raw word goes to the receive queue; at a full
receive queue the model stops (log 7, DESIGN CHOICE, safe). -/
def shiftBit (sh : Shifter) (s : State) : Host.Outcome State Fault Refusal :=
  let out := sh.word.getLsbD sh.k
  let inp := Config.targetBit s.draws s.trace out
  let got := withSample sh.got sh.k inp
  let t := { s with trace := s.trace ++ [WireEvent.cycle out inp], draws := s.draws + 1 }
  if sh.k + 1 < sh.len.toNat then
    .next { t with shifter := some { sh with k := sh.k + 1, got := got } }
  else if s.rxq.length < fifoDepth then
    .next { t with shifter := none, rxq := s.rxq ++ [rawWord sh.len got (Config.rawPad s.draws)] }
  else .fault .rxOverflow

/-- One step of the peripheral: it takes the head of the transmit queue, or shifts one bit, or has nothing to do. -/
def tick (s : State) : Host.Outcome State Fault Refusal :=
  match s.shifter with
  | some sh =>
    if frameLenOk sh.len && decide (sh.k < sh.len.toNat) then shiftBit sh s else .refused .frameLength
  | none =>
    match s.txq with
    | [] => .next s
    | f :: rest =>
      if frameLenOk f.len then
        .next { s with txq := rest, shifter := some { word := f.word, len := f.len, k := 0, got := 0 } }
      else .refused .frameLength

end Sys2Proof.Machine
end

