-- ==== Sys2Proof/Machine/Sequencer.lean ====
section
/-!
DEFINITION. Which agent moves, which instruction the engine is at, what the host's lines do, and where an instruction's words
are placed. Step.lean only calls what stands here.
-/

namespace Sys2Proof.Machine

/-- A step's outcome with the bookkeeping of an agent's move added to a next state. -/
def mapNext (f : State → State) : Host.Outcome State Fault Refusal → Host.Outcome State Fault Refusal
  | .next t => .next (f t)
  | .fault r => .fault r
  | .refused r => .refused r

/-- Whose turn it is after a move that leaves the state `t`: the engine's while the peripheral has nothing to shift, else the
free value's choice (log 4). -/
def nextTurn (t : State) : Turn :=
  if t.busy then (if Config.turnDraw t.draws then .peripheral else .engine) else .engine

/-- After an engine move the host's lines have been seen, and the host drives what it likes next (log 5). -/
def afterMove (t : State) : State :=
  { t with port := Config.hostDrives t.draws, turn := nextTurn t, draws := t.draws + 1 }

/-- After a peripheral move the host's lines stand as they are: the engine has not seen them yet. -/
def afterTick (t : State) : State :=
  { t with turn := nextTurn t, draws := t.draws + 1 }

/-- The peripheral moves next. -/
def State.peripheralMoves (s : State) : Bool := s.turn == .peripheral && s.busy

/-- The instruction the engine is at while a command is in progress: in SEND_HEADER the header byte it builds from the latched
request (42_engine.md rule R87), elsewhere the latched command itself. -/
def currentInstr (s : State) : Except Fault Instr :=
  match s.st with
  | .sendHeader =>
    match s.headerDue with
    | none => .error .impossibleTransition
    | some h =>
      match decode (.header h) with
      | .ok i => .ok i
      | .error _ => .error .impossibleTransition
  | _ =>
    match s.cmd with
    | none => .error (.invalidRegister .cmd)
    | some c =>
      match s.requestData c with
      | .error f => .error f
      | .ok d =>
        match decode (.command c d) with
        | .ok i => .ok i
        | .error _ => .error .impossibleTransition

/-- READY (42_engine.md rule R85): an offered command is accepted, a reserved word included (43_line.md rule R107). -/
def readyMove (s : State) : Host.Outcome State Fault Refusal :=
  if s.port.cmdValid then
    match decode (.command s.port.cmd s.port.wdata) with
    | .ok i => exec i s
    | .error _ => .next (s.acceptReserved s.port.cmd s.port.wdata)
  else .next s

/-- DONE or FAULTED (42_engine.md rule R93). -/
def responseMove (s : State) : Host.Outcome State Fault Refusal :=
  if s.port.rspTake then .next s.takeResponse else .next s

/-- A state in which a command is in progress: an offer or a take has no effect (10_state.md rules R20, R21; 20_memory.md R40). -/
def progressMove (s : State) : Host.Outcome State Fault Refusal :=
  match currentInstr s with
  | .ok i => exec i s
  | .error f => .fault f

/-- The engine's move by its state. -/
def stateMove (s : State) : Host.Outcome State Fault Refusal :=
  match s.st with
  | .ready => readyMove s
  | .done => responseMove s
  | .faulted => responseMove s
  | .sendHeader => progressMove s
  | .awaitAck => progressMove s
  | .sendReadData => progressMove s
  | .sendWriteData => progressMove s
  | .sendIdle => progressMove s
  | .sendSequence => progressMove s

/-- The fault of a response-port read in this move, if any (10_state.md rule R21). A good read only looks at the registers. -/
def readFault (s : State) : Option Fault :=
  match s.port.read with
  | none => none
  | some r =>
    match s.rspRead r with
    | .ok _ => none
    | .error f => some f

/-- The engine's move: the host's read first, then a teardown (70_reset_and_hazards.md rule R124), then the state's own move
(the order within a move is log 24). -/
def engineMove (s : State) : Host.Outcome State Fault Refusal :=
  match readFault s with
  | some f => .fault f
  | none =>
    if s.port.teardown then
      if s.inProgress then .refused .teardownInProgress else .next { s with tornDown := true }
    else stateMove s

/-- One step: after teardown there is none (R124); else the peripheral or the engine moves. No foreign bus agent moves (log 17). -/
def stepOnce (s : State) : Host.Outcome State Fault Refusal :=
  if s.tornDown then .refused .afterTeardown
  else if s.peripheralMoves then mapNext afterTick (tick s)
  else mapNext afterMove (engineMove s)

/-- The command byte of the request a header carries: `cmd[4:1] = hdr[4:1]` (30_encoding.md rule R49). -/
def commandOfHeader (h : Byte) : Byte := transferByte (fieldAPnDP h) (fieldRnW h) (fieldAddr h)

/-- The state `s` with an instruction's words where the engine takes its next instruction from (log 11, log 13): a command is
offered on the command port in READY; a header is due in SEND_HEADER, its request latched. Nothing is fetched (10_state.md rule R16),
so the engine's state and the turn are set with it. -/
def placeWords (ws : Words) (s : State) : State :=
  match ws with
  | .command c d =>
    { s with st := .ready, phase := .call, turn := .engine, tornDown := false,
             port := { PortIn.idle with cmdValid := true, cmd := c, wdata := d } }
  | .header h =>
    { s with st := .sendHeader, phase := .call, turn := .engine, tornDown := false, port := .idle,
             cmd := some (commandOfHeader h), wdata := some 0 }

end Sys2Proof.Machine
end

