-- ==== Sys2Proof/Machine/Step.lean ====
section
/-!
DEFINITION. The step, and the placing of a word for the next step.
-/

namespace Sys2Proof.Machine

def step (s : State) : Host.Outcome State Fault Refusal := stepOnce s

/-- `s` with the instruction of the table's bits `w` placed where `step` takes its next instruction from. -/
def State.withFetchWord (s : State) (nbits w : Nat) : State := placeWords (tableWords nbits w) s

end Sys2Proof.Machine
end

