-- ==== Sys2Proof/Machine/Labels.lean ====
section
/-!
DEFINITION. The driver labels of 30_encoding.md rule R56 on the frames and cycles the engine sends: what each named frame transmits (R55), in
which order a command sends its frames (R60), and who drives each bit of them. No step reads a label.
-/

namespace Sys2Proof.Machine

/-- The frame a name stands for, for the header byte `hdr` and the write data `d` (30_encoding.md rule R55). -/
def FrameKind.frame (hdr : Byte) (d : Word) : FrameKind → Frame
  | .hdrR => headerFrame true hdr
  | .hdrW => headerFrame false hdr
  | .rdLo => ⟨0xFFFF, dataLoBits⟩
  | .rdHi => ⟨0x1FFFF, dataHiBits⟩
  | .wrLo => ⟨d &&& 0xFFFF, dataLoBits⟩
  | .wrHi => ⟨(d >>> 16) ||| ((if parityBit d then 1#32 else 0#32) <<< 16), dataHiBits⟩
  | .idle => idleFrame
  | .ones24 => Machine.ones24
  | .ones8 => Machine.ones8
  | .zero8 => Machine.zero8
  | .j2s => Machine.j2s

/-- How many bits a named frame has, whatever it transmits. -/
def FrameKind.bits (k : FrameKind) : Nat := (k.frame 0 0).len.toNat

/-- The last bit of the frame is a T bit. -/
def endsOnTarget (k : FrameKind) : Bool := driver k false (k.bits - 1) == .target

/-- The previous frame on the wire ended on a T bit: the condition that makes bit 0 of IDLE a turnaround (30_encoding.md rule R56). -/
def afterTargetBit (before : Option FrameKind) : Bool :=
  match before with
  | some k => endsOnTarget k
  | none => false

/-- The data frames of a TRANSFER. -/
def dataKinds (isRead : Bool) : List FrameKind := if isRead then [.rdLo, .rdHi] else [.wrLo, .wrHi]

/-- The header frame of a TRANSFER. -/
def headerKind (isRead : Bool) : FrameKind := if isRead then .hdrR else .hdrW

/-- The frames of a TRANSFER whose ACK is `ack`, in wire order (30_encoding.md rule R60). -/
def transferKinds (isRead : Bool) (ack : AckKind) : List FrameKind :=
  headerKind isRead :: ((if ack = .ok then dataKinds isRead else []) ++ [.idle])

/-- The batch of a line reset by name (43_line.md rule R104). -/
def lineResetKinds : List FrameKind := [.ones24, .ones24, .ones8, .zero8]

/-- The batches of a line-control command word by name (43_line.md rules R104 to R106). -/
def sequenceKinds (c : Byte) : List (List FrameKind) :=
  if c = lineResetByte then [lineResetKinds]
  else if c = switchToSwdByte then [[.j2s]]
  else (List.replicate connectRepeat [lineResetKinds, [.j2s], lineResetKinds]).flatten

/-- The label of every bit of frames sent one after the other, after the frame `before` (30_encoding.md rule R56). -/
def wireLabels : Option FrameKind → List FrameKind → List (List Driver)
  | _, [] => []
  | before, k :: ks => (List.range k.bits).map (driver k (afterTargetBit before)) :: wireLabels (some k) ks

/-- The batch that the engine's state exchanges, by name (42_engine.md rules R87 to R92, 43_line.md rule R103). -/
def State.dueKinds (s : State) : Option (List FrameKind) :=
  match s.st with
  | .sendHeader => s.cmd.map fun c => [headerKind (fieldRnW c)]
  | .sendReadData => some (dataKinds true)
  | .sendWriteData => some (dataKinds false)
  | .sendIdle => some [.idle]
  | .sendSequence =>
    match s.cmd, s.seqIdx with
    | some c, some k => (sequenceKinds c)[k]?
    | _, _ => none
  | .ready => none
  | .awaitAck => none
  | .done => none
  | .faulted => none

/-- In SEND_IDLE, the frame that the command in progress sent before its IDLE: RD_HI or WR_HI, or its header frame after a non-OK ACK.
Elsewhere no label depends on the frame before. -/
def State.kindBefore (s : State) : Option FrameKind :=
  match s.st, s.cmd, s.ack with
  | .sendIdle, some c, some a => (transferKinds (fieldRnW c) (decodeAck a)).dropLast.getLast?
  | _, _, _ => none

/-- The label of the cycle that the peripheral makes next: of the batch in flight, all but the words still queued have been taken, and the
last one taken is in the shifter at bit `k`. -/
def State.cycleDriver (s : State) : Option Driver :=
  match s.phase, s.shifter, s.dueKinds with
  | .waitDone, some sh, some ks =>
    let j := ks.length - 1 - s.txq.length
    ks[j]?.map fun k => driver k (afterTargetBit (if j = 0 then s.kindBefore else ks[j - 1]?)) sh.k
  | _, _, _ => none

end Sys2Proof.Machine
end

