-- ==== Sys2Proof/Machine/HostSide.lean ====
section
/-!
DEFINITION. The host's side of the ports: the assembler (30_encoding.md rule R62), the pseudo-instruction `APREAD2` (R63) and the command
surface (R64). `RETRY`, which looks at responses, is `retryResponses` of Session.lean.
-/

namespace Sys2Proof.Machine

/-- A line of the assembler (30_encoding.md rule R62): the offset as written, the data of a write. -/
inductive AsmLine where
  | dpr (off : Nat)
  | dpw (off : Nat) (data : Word)
  | apr (off : Nat)
  | apw (off : Nat) (data : Word)
  | lineReset
  | jtag2swd
  | connect
  deriving DecidableEq, Repr

/-- The register index of an offset; any other offset is refused (30_encoding.md rule R62). -/
def asmAddr (off : Nat) : Option (BitVec 2) :=
  if off = 0x0 then some 0
  else if off = 0x4 then some 1
  else if off = 0x8 then some 2
  else if off = 0xC then some 3
  else none

/-- The command a line stands for; one written without data has `wdata = 0` (30_encoding.md rule R62). -/
def assemble : AsmLine → Option Instr
  | .dpr off => (asmAddr off).map (.dpr · 0)
  | .dpw off d => (asmAddr off).map (.dpw · d)
  | .apr off => (asmAddr off).map (.apr · 0)
  | .apw off d => (asmAddr off).map (.apw · d)
  | .lineReset => some (.lineReset 0)
  | .jtag2swd => some (.switchToSwd 0)
  | .connect => some (.connect 0)

/-- `APREAD2 <off>` (30_encoding.md rule R63): the identical AP read twice; the second response is kept. -/
def apRead2 (addr : BitVec 2) : List Instr := [.apr addr 0, .apr addr 0]

/-- The operations of the source's command surface that 30_encoding.md rule R64 expands. The register offsets and data values are
the spec's general knowledge (log 23, PRESUMED); no rule of the block depends on them. -/
inductive SurfaceOp where
  | lineReset
  | switchToSwd
  | writeSelect (apsel : BitVec 8) (apbank dpbank : BitVec 4)
  | readId
  | readApId (apsel : BitVec 8)
  | writeAbort (flags : Word)
  | readControlStatus
  | writeControlStatus (v : Word)
  | clearSticky
  | readProtection
  | readEraseStatus
  | eraseAll
  | debugPower (on : Bool)
  | readTargetAddress
  | writeTargetAddress (v : Word)
  | readData
  | writeData (v : Word)
  /-- Not expanded: the source does not say which register it is (91_not_in_source.md N14). -/
  | apAddress
  deriving DecidableEq, Repr

/-- The data of a select-register write (30_encoding.md rule R64). -/
def selectWord (apsel : BitVec 8) (apbank dpbank : BitVec 4) : Word :=
  (apsel.setWidth 32 <<< 24) ||| (apbank.setWidth 32 <<< 4) ||| dpbank.setWidth 32

/-- The expansions of 30_encoding.md rule R64. -/
def expandSurface : SurfaceOp → Option (List Instr)
  | .lineReset => some [.lineReset 0]
  | .switchToSwd => some [.switchToSwd 0]
  | .writeSelect apsel apbank dpbank => some [.dpw 2 (selectWord apsel apbank dpbank)]
  | .readId => some [.dpr 0 0]
  | .readApId apsel => some (.dpw 2 (selectWord apsel 0xF 0) :: apRead2 3)
  | .writeAbort flags => some [.dpw 0 flags]
  | .readControlStatus => some [.dpr 1 0]
  | .writeControlStatus v => some [.dpw 1 v]
  | .clearSticky => some [.dpw 0 0x1E]
  | .readProtection => some (.dpw 2 0x01000000 :: apRead2 3)
  | .readEraseStatus => some (.dpw 2 0x01000000 :: apRead2 2)
  | .eraseAll => some [.dpw 2 0x01000000, .apw 1 1]
  | .debugPower on => some [.dpw 1 (if on then 0x50000000 else 0)]
  | .readTargetAddress => some (apRead2 1)
  | .writeTargetAddress v => some [.apw 1 v]
  | .readData => some (apRead2 3)
  | .writeData v => some [.apw 3 v]
  | .apAddress => none

end Sys2Proof.Machine
end

