-- ==== Sys2Proof/Machine/Session.lean ====
section
/-!
DEFINITION. What a host sees of a run, and what the spec builds on it: the responses in trace order, the duty each one leaves
(70_reset_and_hazards.md rules R128 to R132), the order of CONNECT and the identification read (R126), the dummy-read pair (R127), and
which AP access an AP read belongs to (20_memory.md rules R47 and R48, 70_reset_and_hazards.md rule R135). The engine enforces none of it
(60_exceptions.md rule R114), and no step reads it.
-/

namespace Sys2Proof.Machine

/-- One command of a session and what its response gave; an invalid register is `none`. -/
structure Response where
  cmd     : Byte
  /-- The data of a write. -/
  wdata   : Option Word
  outcome : BitVec 3
  ack     : Option (BitVec 3)
  rdata   : Option Word
  rpar    : Option Bool
  deriving DecidableEq, Repr

/-- The response that a state holds for the host. -/
def State.response (s : State) : Option Response :=
  match s.cmd, s.outcome with
  | some c, some o =>
    some { cmd := c, wdata := s.readWdata.toOption, outcome := o, ack := s.ack, rdata := s.rdata, rpar := s.rpar }
  | _, _ => none

/-- A command ends in the step from `s` to `t` (10_state.md rule R21). -/
def endsCommand (s t : State) : Bool := !s.rspValid && t.rspValid

/-- The responses of a run in trace order, one for each command that ends in it. -/
def session : List State → List Response
  | s :: t :: rest => (if endsCommand s t then t.response.toList else []) ++ session (t :: rest)
  | [_] => []
  | [] => []

/-- The states of a run of at most `n` steps from `s`. -/
def runStates : Nat → State → List State
  | 0, s => [s]
  | n + 1, s =>
    match step s with
    | .next t => s :: runStates n t
    | .fault _ => [s]
    | .refused _ => [s]

/-- The register that an AP read names, if the command is one. -/
def Response.apRead (r : Response) : Option (BitVec 2) :=
  if isTransfer r.cmd && fieldAPnDP r.cmd && fieldRnW r.cmd then some (fieldAddr r.cmd) else none

/-- The command is an AP write. -/
def Response.apWrite (r : Response) : Bool := isTransfer r.cmd && fieldAPnDP r.cmd && !fieldRnW r.cmd

/-- The kind of the ACK, if one was received. -/
def Response.ackKind (r : Response) : Option AckKind := r.ack.map decodeAck

/-- The data of a read that passed its parity check; a word that did not is discarded (70_reset_and_hazards.md rule R131). -/
def Response.goodData (r : Response) : Option Word :=
  match r.rdata, r.rpar with
  | some w, some p => if parityOk w p then some w else none
  | _, _ => none

/-- The responses of the invocations of `RETRY <cmd line>`, given what each try of the command gives: the same command again while the
outcome is WAIT, without limit; any other outcome ends it, a capacity error behind a WAIT ACK too (30_encoding.md rule R63,
70_reset_and_hazards.md rule R128). -/
def retryResponses : List Response → List Response
  | [] => []
  | r :: rest => if r.outcome = AbortCode.wait.code then r :: retryResponses rest else [r]

/-! ## What a response asks of the host -/

/-- What a host has to do after a response (70_reset_and_hazards.md rules R128 to R132). -/
inductive Duty where
  /-- OK: nothing. -/
  | proceed
  /-- WAIT: it may offer the identical command again (R128). -/
  | mayRetry
  /-- FAULT: it clears the sticky error before relying on a later result (R129). -/
  | clearSticky
  /-- UNKNOWN_ACK: failed; it runs CONNECT, the command R130 names, or LINE_RESET, which ruling 92_eei_decisions.md D20 allows for the same case,
  before its next TRANSFER (`Duty.beforeTransfer`; log 27). -/
  | reconnect
  /-- PARITY_MISMATCH: it discards `rdata`, and to have the value it issues these commands (R131). -/
  | discard (reissue : List Instr)
  /-- TRANSPORT_CAPACITY with `ack` invalid: it may retry after a drain (R132). Of a TRANSFER nothing reached the wire then. -/
  | retryAfterDrain
  /-- TRANSPORT_CAPACITY with `ack` valid, after the header: it runs LINE_RESET or CONNECT before its next TRANSFER (R132). -/
  | resync
  /-- BAD_COMMAND: the command word was reserved (43_line.md rule R107). -/
  | badCommand
  deriving DecidableEq, Repr

/-- What a host issues to have the value of a read that failed its parity check: a DPR again, but for an APR the whole dummy-read pair,
because the failed read was itself an AP access (70_reset_and_hazards.md rule R131). -/
def reissueRead (c : Byte) : List Instr :=
  if fieldAPnDP c then apRead2 (fieldAddr c) else [.dpr (fieldAddr c) 0]

/-- The duty that a response leaves. For a line-control command that ended in TRANSPORT_CAPACITY, `ack` is invalid although earlier batches may
have been clocked (43_line.md rule R103), while 70_reset_and_hazards.md rule R132 explains an invalid `ack` by SEND_HEADER; the model takes R132's
test by its letter, which gives `retryAfterDrain` (log 31, DESIGN CHOICE). -/
def dutyAfter (r : Response) : Option Duty :=
  if r.outcome = okCode then some .proceed
  else if r.outcome = AbortCode.wait.code then some .mayRetry
  else if r.outcome = AbortCode.fault.code then some .clearSticky
  else if r.outcome = AbortCode.unknownAck.code then some .reconnect
  else if r.outcome = AbortCode.parityMismatch.code then some (.discard (reissueRead r.cmd))
  else if r.outcome = AbortCode.transportCapacity.code then some (if r.ack.isSome then .resync else .retryAfterDrain)
  else if r.outcome = AbortCode.badCommand.code then some .badCommand
  else none

/-- The commands one of which the host runs before its next TRANSFER: after a lost step LINE_RESET or CONNECT (70_reset_and_hazards.md rule R132),
after an Unknown ACK CONNECT (R130) or LINE_RESET (92_eei_decisions.md D20, the ruling that R130 cites). Empty: no such command is owed. -/
def Duty.beforeTransfer : Duty → List Byte
  | .reconnect => [connectByte, lineResetByte]
  | .resync => [lineResetByte, connectByte]
  | .proceed => []
  | .mayRetry => []
  | .clearSticky => []
  | .discard _ => []
  | .retryAfterDrain => []
  | .badCommand => []

/-- The command of a response meets the duty: it is one of those asked for and it ran to its end. That only an OK end counts is the model's
choice (log 27, DESIGN CHOICE). -/
def Duty.metBy (d : Duty) (r : Response) : Bool := d.beforeTransfer.contains r.cmd && r.outcome == okCode

/-- The duty owed before the next TRANSFER after one more response: the one that this response leaves, else the earlier one while it is unmet. -/
def owedAfter (owed : Option Duty) (r : Response) : Option Duty :=
  ((dutyAfter r).filter fun d => !d.beforeTransfer.isEmpty).or (owed.filter fun d => !d.metBy r)

/-- No TRANSFER of a session comes while a duty of `Duty.beforeTransfer` is owed (70_reset_and_hazards.md rules R130 and R132). -/
def keepsDuties : Option Duty → List Response → Bool
  | _, [] => true
  | owed, r :: rest => !(owed.isSome && isTransfer r.cmd) && keepsDuties (owedAfter owed r) rest

/-- The host resynchronises as rules R130 and R132 ask, from the start of a session. -/
def resyncsFirst (rs : List Response) : Bool := keepsDuties none rs

/-! ## Connecting -/

/-- How far a host has come with 70_reset_and_hazards.md rule R126: nothing run yet, the identification read owed, or neither. -/
inductive ConnectPhase where
  | start
  | identify
  | connected
  deriving DecidableEq, Repr

/-- The duty of rule R126 on the command words from `p` on: the first command is CONNECT (R123, step 5), and after every CONNECT and every lone
LINE_RESET the next TRANSFER is `DPR 0x0`. It goes by the command words: rule R126 does not say whether a CONNECT that ended in
TRANSPORT_CAPACITY has been run, or a `DPR 0x0` that did not end OK is the read it asks for, and the model counts both (log 29, DESIGN
CHOICE). -/
def connectOrder : ConnectPhase → List Byte → Bool
  | _, [] => true
  | p, c :: cs =>
    if c = connectByte then connectOrder .identify cs
    else
      match p with
      | .start => false
      | .identify =>
        if isTransfer c then c == transferByte false true 0 && connectOrder .connected cs else connectOrder .identify cs
      | .connected => connectOrder (if c = lineResetByte then .identify else .connected) cs

/-- The duty of 70_reset_and_hazards.md rule R126 for the command words of a session. -/
def connectsFirst (cmds : List Byte) : Bool := connectOrder .start cmds

/-! ## The dummy-read pair -/

/-- The next read of AP register `a` that ends with ACK OK, and the responses after it: commands that are no AP access may come first, a WAIT is
repeated, and an AP access of another kind, a CONNECT or any other ACK breaks the pair (70_reset_and_hazards.md rules R127, R135). Two points
that R127 leaves open are the model's choice (log 30, DESIGN CHOICE). Commands that are no AP access may stand between a read that ended WAIT
and its repeat, of the first read and of the second. A read that ended in TRANSPORT_CAPACITY counts by its ACK where one was received; where
none was, so that nothing reached the wire, it breaks the pair. -/
def pairRead (a : BitVec 2) : List Response → Option (Response × List Response)
  | [] => none
  | r :: rest =>
    match r.apRead with
    | some b =>
      if b = a then
        match r.ackKind with
        | some .ok => some (r, rest)
        | some .wait => pairRead a rest
        | some .fault => none
        | some .unknown => none
        | none => none
      else none
    | none => if r.apWrite || r.cmd == connectByte then none else pairRead a rest

/-- The response that a dummy-read pair of AP register `a` keeps, for the responses from its first read on: the second identical read's.
A read that ended WAIT is repeated and counts once (70_reset_and_hazards.md rule R127). -/
def apPair (a : BitVec 2) (rs : List Response) : Option Response :=
  if rs.head?.bind Response.apRead = some a then
    (pairRead a rs).bind fun first => (pairRead a first.2).map Prod.fst
  else none

/-- The value that a dummy-read pair gives: the kept response's `rdata`, unless it is to be discarded (R127, R131). -/
def apPairValue (a : BitVec 2) (rs : List Response) : Option Word := (apPair a rs).bind Response.goodData

/-! ## Which AP access an AP read belongs to -/

/-- The host's explicit clear of a sticky error, carried out: `DPW 0x0, 0x1E` with outcome OK. The spec says that its data belongs to the
excluded Register Model; the word is its general knowledge (70_reset_and_hazards.md rule R129, 30_encoding.md rule R64; log 28). -/
def isStickyClear (r : Response) : Bool :=
  r.cmd == transferByte false false 0 && r.wdata == some 0x1E && r.outcome == okCode

/-- A line reset or a CONNECT that ran to its end (70_reset_and_hazards.md rule R132). -/
def isResync (r : Response) : Bool := (r.cmd == lineResetByte || r.cmd == connectByte) && r.outcome == okCode

/-- A capacity error after the header (70_reset_and_hazards.md rule R132). -/
def losesStep (r : Response) : Bool := r.outcome == AbortCode.transportCapacity.code && r.ack.isSome

/-- What a claim may assume of the target at a point of a session. -/
structure TargetView where
  /-- A FAULT was answered and not cleared: no premise applies (20_memory.md rule R48). -/
  sticky    : Bool
  /-- A capacity error came after a header, with no line reset or CONNECT since: every sampled bit is any value
  (93_implementation_defined.md I7). -/
  outOfStep : Bool
  /-- The last AP access, if it is an AP read with ACK OK since the last CONNECT: the read's place in the session and the register it names.
  `none`: the next AP read is a draw (20_memory.md rule R47, 70_reset_and_hazards.md rule R135). The reads are numbered through a FAULT and a
  lost step too; whether the premise applies is `TargetView.delivers`. -/
  posted    : Option (Nat × BitVec 2)
  deriving DecidableEq, Repr

/-- Before the first command. 10_state.md rule R29 and 93_implementation_defined.md I25 call the target's state before the first CONNECT any value,
and R47, R48 and R128 do not speak of it: that the premises may be applied from the first command on, not only after a CONNECT, is the model's
choice (log 32, DESIGN CHOICE). -/
def TargetView.start : TargetView := { sticky := false, outOfStep := false, posted := none }

/-- A premise about the target's answers may be applied to the next packet. -/
def TargetView.premised (v : TargetView) : Bool := !v.sticky && !v.outOfStep

/-- The AP read whose value the premise gives the next packet, if that is an AP read: none where it is a draw (20_memory.md rule R47) and none
while no premise applies (R48). -/
def TargetView.delivers (v : TargetView) : Option (Nat × BitVec 2) := if v.premised then v.posted else none

/-- The AP read that the next one follows, after response number `n`: a CONNECT, and an AP write with any ACK, leave a draw; an AP read with
ACK OK is the next number (20_memory.md rule R47, 70_reset_and_hazards.md rule R135). -/
def postedAfter (before : Option (Nat × BitVec 2)) (n : Nat) (r : Response) : Option (Nat × BitVec 2) :=
  if r.cmd == connectByte || (r.apWrite && r.ack.isSome) then none
  else
    match r.apRead with
    | some a => if r.ackKind = some .ok then some (n, a) else before
    | none => before

/-- The view after response number `n` (20_memory.md rules R47 and R48; what the model adds to their words is log 28). -/
def TargetView.after (v : TargetView) (n : Nat) (r : Response) : TargetView :=
  { sticky := r.ackKind == some .fault || (v.sticky && !isStickyClear r),
    outOfStep := losesStep r || (v.outOfStep && !isResync r),
    posted := postedAfter v.posted n r }

/-- The view after responses numbered from `n` on. -/
def viewFrom (v : TargetView) (n : Nat) : List Response → TargetView
  | [] => v
  | r :: rest => viewFrom (v.after n r) (n + 1) rest

/-- The view after a session. -/
def viewOf (rs : List Response) : TargetView := viewFrom .start 0 rs

end Sys2Proof.Machine
end

