-- ==== Sys2Proof/Safety.lean ====
section
/-!
DEFINITION. The terms that claims use: the invariants of the machine, exclusive ownership of the peripheral, a run in which only
the block moves, what a batch leaves on the wire, and the named premises about the target, the peripheral and the host.
-/

namespace Sys2Proof.Machine

/-- The batch that the engine's state exchanges (42_engine.md rules R87 to R92, 43_line.md rule R103). -/
def State.dueBatch (s : State) : Option (List Frame) :=
  match s.st with
  | .sendHeader => s.cmd.map fun c => [headerFrame (fieldRnW c) (headerOfCommand c)]
  | .sendReadData => some readFillFrames
  | .sendWriteData => s.readWdata.toOption.map writeFrames
  | .sendIdle => some [idleFrame]
  | .sendSequence =>
    match s.seq, s.seqIdx with
    | some batches, some k => batches[k]?
    | _, _ => none
  | .ready => none
  | .awaitAck => none
  | .done => none
  | .faulted => none

/-- The wire sequence of a line-control command word (43_line.md rules R104 to R106). -/
def sequenceOf (c : Byte) : List (List Frame) :=
  if c = lineResetByte then lineResetSeq
  else if c = switchToSwdByte then switchSeq
  else connectSeq

/-- A command word that is a line-control command (30_encoding.md rule R50). -/
def isLineControl (c : Byte) : Bool := c == lineResetByte || c == switchToSwdByte || c == connectByte

/-- The outcome that a not-OK ACK gives (42_engine.md rule R88). -/
def ackOutcome (a : BitVec 3) : BitVec 3 :=
  match decodeAck a with
  | .ok => okCode
  | .wait => AbortCode.wait.code
  | .fault => AbortCode.fault.code
  | .unknown => AbortCode.unknownAck.code

/-- The result registers of a TRANSFER whose ACK phase is over, before a capacity error: the first four rows of 10_state.md
rule R19 and the ACK's outcome. -/
def TransferResults (c : Byte) (s : State) : Prop :=
  ∃ a o, s.ack = some a ∧ s.outcome = some o ∧
    ((decodeAck a ≠ .ok ∧ o = ackOutcome a ∧ s.rdata = none ∧ s.rpar = none) ∨
     (decodeAck a = .ok ∧ fieldRnW c = false ∧ o = okCode ∧ s.rdata = none ∧ s.rpar = none) ∨
     (decodeAck a = .ok ∧ fieldRnW c = true ∧ ∃ w p, s.rdata = some w ∧ s.rpar = some p ∧
        o = if parityOk w p then okCode else AbortCode.parityMismatch.code))

/-- The result registers after a capacity error in a TRANSFER (10_state.md rule R19): nothing is valid if it came in
SEND_HEADER, and `rdata` is valid only where SEND_READ_DATA succeeded, which an OK ACK to a read alone reaches. -/
def CapacityResults (c : Byte) (s : State) : Prop :=
  s.outcome = some AbortCode.transportCapacity.code ∧ s.rdata.isSome = s.rpar.isSome ∧
    (s.rdata ≠ none → ∃ a, s.ack = some a ∧ decodeAck a = .ok) ∧ (fieldRnW c = false → s.rdata = none)

/-- Which results are valid when a command has ended: the table of 10_state.md rule R19. -/
def EndedResults (c : Byte) (s : State) : Prop :=
  if reservedCommand c then
    s.outcome = some AbortCode.badCommand.code ∧ s.ack = none ∧ s.rdata = none ∧ s.rpar = none
  else if isTransfer c then TransferResults c s ∨ CapacityResults c s
  else (s.outcome = some okCode ∨ s.outcome = some AbortCode.transportCapacity.code) ∧
    s.ack = none ∧ s.rdata = none ∧ s.rpar = none

/-- No result of the command in progress exists yet. -/
abbrev NoResults (s : State) : Prop := s.ack = none ∧ s.rdata = none ∧ s.rpar = none ∧ s.outcome = none

/-- What holds in each engine state: which command is latched and which results are valid (10_state.md rules R12 and R19). -/
def StageOk (s : State) : Prop :=
  match s.st with
  | .ready => (s.cmd = none ∧ NoResults s) ∨ ∃ c, s.cmd = some c ∧ EndedResults c s
  | .sendHeader => ∃ c, s.cmd = some c ∧ isTransfer c = true ∧ NoResults s ∧
      (s.phase ≠ .call → s.hdr = some (headerOfCommand c))
  | .awaitAck => ∃ c, s.cmd = some c ∧ isTransfer c = true ∧ NoResults s ∧
      s.hdr = some (headerOfCommand c) ∧ s.hresp ≠ none
  | .sendReadData => ∃ c a, s.cmd = some c ∧ isTransfer c = true ∧ fieldRnW c = true ∧
      s.ack = some a ∧ decodeAck a = .ok ∧ s.rdata = none ∧ s.rpar = none ∧ s.outcome = none
  | .sendWriteData => ∃ c a, s.cmd = some c ∧ isTransfer c = true ∧ fieldRnW c = false ∧
      s.ack = some a ∧ decodeAck a = .ok ∧ s.rdata = none ∧ s.rpar = none ∧ s.outcome = none
  | .sendIdle => ∃ c, s.cmd = some c ∧ isTransfer c = true ∧ TransferResults c s
  | .sendSequence => ∃ c k, s.cmd = some c ∧ isLineControl c = true ∧ NoResults s ∧
      s.seq = some (sequenceOf c) ∧ s.seqIdx = some k ∧ k < (sequenceOf c).length
  | .done => ∃ c, s.cmd = some c ∧ EndedResults c s ∧ s.outcome = some okCode
  | .faulted => ∃ c o, s.cmd = some c ∧ EndedResults c s ∧ s.outcome = some o ∧ o ≠ okCode

/-- The batch stands in the first slots (10_state.md rule R24). -/
abbrev BatchInSlots (b : List Frame) (s : State) : Prop :=
  s.count = b.length ∧ (s.slots.take s.count).map (fun sl => (sl.tx, sl.len)) = b.map (fun f => (some f.word, some f.len))

/-- The queue holds the low bits of the batch's frames and their lengths, in slot order (40_transport.md rule R70). -/
def QueuedInOrder (b q : List Frame) : Prop :=
  q.length = b.length ∧ ∀ (k : Nat) (f g : Frame), b[k]? = some f → q[k]? = some g →
    g.len = f.len ∧ ∀ i, g.word.getLsbD i = (decide (i < f.len.toNat) && f.word.getLsbD i)

/-- How many words the peripheral still holds or has received: queued, in the shifter, or raw. -/
def State.wordsHeld (s : State) : Nat := s.txq.length + s.shifter.isSome.toNat + s.rxq.length

/-- An exchange is under way only in a sending state; its batch fills the first slots, and after the push the peripheral holds at
least as many words as the capture takes (40_transport.md rule R72). -/
def ExchangeOk (s : State) : Prop :=
  s.phase = .call ∨
    ∃ b, s.dueBatch = some b ∧ b ≠ [] ∧ BatchInSlots b s ∧ (s.phase = .waitDone → s.count ≤ s.wordsHeld)

/-- The invariant of the machine (10_state.md rules R12, R19, R22, R24, R26). -/
structure Inv (s : State) : Prop where
  slots_four     : s.slots.length = fifoDepth
  count_le       : s.count ≤ fifoDepth
  txq_le         : s.txq.length ≤ fifoDepth
  rxq_le         : s.rxq.length ≤ fifoDepth
  txq_frames     : ∀ f ∈ s.txq, frameLenOk f.len = true
  shifter_frame  : ∀ sh, s.shifter = some sh → frameLenOk sh.len = true ∧ sh.k < sh.len.toNat
  lsb            : s.bitOrder = .lsbFirst
  cmd_with_wdata : s.cmd.isSome = s.wdata.isSome
  stage          : StageOk s
  in_exchange    : ExchangeOk s

/-- The peripheral is empty and no exchange is under way (40_transport.md rule R74). -/
def State.Quiet (s : State) : Prop := s.phase = .call ∧ s.txq = [] ∧ s.shifter = none ∧ s.rxq = []

/-- Exclusive ownership (70_reset_and_hazards.md rule R134): all that the peripheral holds is the batch in flight. -/
structure Exclusive (s : State) : Prop where
  inv       : Inv s
  at_call   : s.phase = .call → s.txq = [] ∧ s.shifter = none ∧ s.rxq = []
  no_wait   : s.phase ≠ .waitPush
  in_flight : s.phase = .waitDone → s.wordsHeld = s.count

/-- The engine's state changes of 42_engine.md rule R94 and 43_line.md rule R103, a hold apart. -/
def engineEdge : EngineState → EngineState → Bool
  | .ready, .sendHeader => true
  | .ready, .sendSequence => true
  | .ready, .faulted => true
  | .sendHeader, .awaitAck => true
  | .sendHeader, .faulted => true
  | .awaitAck, .sendReadData => true
  | .awaitAck, .sendWriteData => true
  | .awaitAck, .sendIdle => true
  | .sendReadData, .sendIdle => true
  | .sendReadData, .faulted => true
  | .sendWriteData, .sendIdle => true
  | .sendWriteData, .faulted => true
  | .sendIdle, .done => true
  | .sendIdle, .faulted => true
  | .sendSequence, .done => true
  | .sendSequence, .faulted => true
  | .done, .ready => true
  | .faulted, .ready => true
  | _, _ => false

/-- One move of a run in which the host leaves instruction `i` to run and the peripheral is fair: the peripheral's while it is
busy, else the engine's with `i`. -/
def advance (i : Instr) (s : State) : Host.Outcome State Fault Refusal := if s.busy then tick s else exec i s

/-- `n` such moves. -/
def advanceN (i : Instr) : Nat → State → Host.Outcome State Fault Refusal
  | 0, s => .next s
  | n + 1, s =>
    match advance i s with
    | .next t => advanceN i n t
    | .fault r => .fault r
    | .refused r => .refused r

/-- `n` moves of the peripheral. -/
def tickN : Nat → State → Host.Outcome State Fault Refusal
  | 0, s => .next s
  | n + 1, s =>
    match tick s with
    | .next t => tickN n t
    | .fault r => .fault r
    | .refused r => .refused r

/-- The cycles of a frame on the wire when the bits of `inp` are sampled (00_scope.md rule R8). -/
def frameCycles (f : Frame) (inp : Word) : List WireEvent :=
  (List.range f.len.toNat).map fun i => .cycle (f.word.getLsbD i) (inp.getLsbD i)

/-- What a batch leaves in the trace: a Gap, then its frames in order (10_state.md rule R27, 40_transport.md rule R76). -/
def batchEvents (b : List Frame) (inps : List Word) : List WireEvent :=
  .gap :: (List.zipWith frameCycles b inps).flatten

/-- The clock cycles of a trace (30_encoding.md rule R60). -/
def cycleCount (tr : List WireEvent) : Nat :=
  tr.countP fun e => match e with
    | .cycle _ _ => true
    | .gap => false

/-- The fairness of the peripheral that 40_transport.md rule R69 names: while it is busy it moves again and again. -/
def PeripheralFair : Prop := ∀ n, ∃ m, n ≤ m ∧ Config.turnDraw m = true

/-- The premise `TARGET_POSTED_AP_READ` (20_memory.md rule R47) for the responses of a session in trace order, such as `session` gives for
the states of a run (`runStates`): an AP read with ACK OK delivers
the value `held j a` that the register `a` named by the posted AP read, response number j, held when that read was performed. It says
nothing of a read whose result is a draw (the first one, one after a CONNECT or an AP write: rules R47 and R135), of a read between a FAULT and
its clear (R48) or a lost step and its resynchronisation (93_implementation_defined.md I7), nor of data that failed its parity check. -/
def TargetPostedApRead (rs : List Response) (held : Nat → BitVec 2 → Word) : Prop :=
  ∀ k r b j a w, rs[k]? = some r → r.apRead = some b → r.ackKind = some .ok → (viewOf (rs.take k)).delivers = some (j, a) →
    r.goodData = some w → w = held j a

/-- The premise `TARGET_EVENTUALLY_ACCEPTS` (70_reset_and_hazards.md rule R128), for the responses to a command repeated identically from a point
of a session with view `v`: some try is answered with an ACK that is no WAIT. Like every premise it is lifted between a FAULT and its clear
(20_memory.md rule R48). -/
def TargetEventuallyAccepts (v : TargetView) (tries : Nat → Response) : Prop :=
  v.premised = true → ∃ n k, (tries n).ackKind = some k ∧ k ≠ .wait

/-- A response that the machine gives to the command word `c`. -/
def GivenTo (c : Byte) (r : Response) : Prop :=
  r.cmd = c ∧ ∃ s, Inv s ∧ s.rspValid = true ∧ s.response = some r

/-- The host keeps the port's duties in this move (70_reset_and_hazards.md rules R125 and R133, rule R124). -/
def HostObeys (s : State) : Prop :=
  (s.port.cmdValid = true → s.cmdReady = true) ∧ (s.port.rspTake = true → s.rspValid = true) ∧
    (s.port.read ≠ none → s.rspValid = true) ∧ (s.port.teardown = true → s.inProgress = false)

end Sys2Proof.Machine
end

