-- ==== Sys2Proof/Certificates/Slice0/Obligations.lean ====
section
/-!
DEFINITION. The statements for the provers, each from a rule of spec/ named in its docstring. A statement about exec that gives a next
state writes that state out. "The model's choice" marks a clause that rests on a log entry and not on a rule.
-/

open Sys2Proof Sys2Proof.Machine

/-! ## Encodings -/

/-- 30_encoding.md rules R49, R50, R53: no bit of an instruction is lost between the encoder and the decoder. -/
def Obligations.DecodeOfEncodeIsTheInstruction : Prop :=
  ∀ i : Instr, WellFormed i = true → decode (encode i) = .ok i

/-- The other direction: words that decode are the encoding of a well-formed instruction, so no reserved word and no bad header falls
through to a neighbour (30_encoding.md rules R51, R54). -/
def Obligations.DecodedWordsAreAnEncoding : Prop :=
  ∀ (w : Words) (i : Instr), decode w = .ok i → WellFormed i = true ∧ encode i = w

/-- Words written out from 30_encoding.md rules R50 and R54 decode to the instructions they stand for. -/
def Obligations.SpecWordsDecode : Prop :=
  decode (.command 0b00001100 7) = .ok (.dpr 1 7) ∧ decode (.command 0b00010000 7) = .ok (.dpw 2 7) ∧
  decode (.command 0b00011110 7) = .ok (.apr 3 7) ∧ decode (.command 0b00001010 7) = .ok (.apw 1 7) ∧
  decode (.command 0b00100000 7) = .ok (.lineReset 7) ∧ decode (.command 0b01000000 7) = .ok (.switchToSwd 7) ∧
  decode (.command 0b01100000 7) = .ok (.connect 7) ∧
  decode (.header 0b10100101) = .ok (.hdrDpRead 0 true) ∧ decode (.header 0b10101001) = .ok (.hdrDpWrite 1 true) ∧
  decode (.header 0b10011111) = .ok (.hdrApRead 3 false) ∧ decode (.header 0b10010011) = .ok (.hdrApWrite 2 false)

/-- 30_encoding.md rule R51: which of the 256 command words are reserved, by its three bullets, and how many of each kind there are. -/
def Obligations.ReservedCommandsAreTheThreeKinds : Prop :=
  (∀ (c : Byte) (d : Word), (∃ e, decode (.command c d) = .error e) ↔
    (0b100 ≤ (c.extractLsb' 5 3).toNat ∨ (c.extractLsb' 5 3 = 0b000#3 ∧ c.getLsbD 0 = true) ∨
      (c.extractLsb' 5 3 ∈ [0b001#3, 0b010#3, 0b011#3] ∧ c.extractLsb' 0 5 ≠ 0#5))) ∧
  ((List.range 256).filter fun n => isTransfer (BitVec.ofNat 8 n)).length = 16 ∧
  ((List.range 256).filter fun n => isLineControl (BitVec.ofNat 8 n)).length = 3 ∧
  ((List.range 256).filter fun n => reservedCommand (BitVec.ofNat 8 n)).length = 237

/-! ## Codec -/

/-- 30_encoding.md rule R53, bit by bit, and its formula; 41_codec.md rule R78. -/
def Obligations.HeaderByteBitByBit : Prop :=
  ∀ (apndp rnw : Bool) (addr : BitVec 2),
    let h := buildHeader apndp rnw addr
    h.getLsbD 0 = true ∧ h.getLsbD 1 = apndp ∧ h.getLsbD 2 = rnw ∧ h.getLsbD 3 = addr.getLsbD 0 ∧
    h.getLsbD 4 = addr.getLsbD 1 ∧ h.getLsbD 5 = (apndp ^^ rnw ^^ addr.getLsbD 0 ^^ addr.getLsbD 1) ∧
    h.getLsbD 6 = false ∧ h.getLsbD 7 = true

/-- 41_codec.md rule R79: the five semantic and parity bits have an even number of set bits. -/
def Obligations.HeaderParityIsEven : Prop :=
  ∀ (apndp rnw : Bool) (addr : BitVec 2),
    popcount (((buildHeader apndp rnw addr).extractLsb' 1 5).setWidth 32) % 2 = 0

/-- 41_codec.md rule R80: `EvenParity` says whether the number of set bits below n is even, for n up to 32, and is refused above. -/
def Obligations.EvenParityCountsTheLowBits : Prop :=
  ∀ (w : Word) (n : Nat),
    (n ≤ 32 → evenParity w n = .ok (decide (((List.range n).filter fun i => w.getLsbD i).length % 2 = 0))) ∧
    (32 < n → evenParity w n = .error .parityWidth)

/-- 41_codec.md rule R81: the parity bit is `popcount(w) mod 2`, set exactly when `EvenParity(w, 32)` is false; with it the 33 bits have an
even count. -/
def Obligations.ParityBitMakesTheCountEven : Prop :=
  ∀ w : Word, (parityBit w).toNat = popcount w % 2 ∧ (parityBit w = true ↔ evenParity w 32 = .ok false) ∧
    (popcount w + (parityBit w).toNat) % 2 = 0

/-- 41_codec.md rule R82: the read-side check, in both of its forms. -/
def Obligations.ParityCheckAcceptsTheParityBit : Prop :=
  ∀ (w : Word) (p : Bool), (parityOk w p = true ↔ (popcount w + p.toNat) % 2 = 0) ∧ (parityOk w p = true ↔ p = parityBit w)

/-- 41_codec.md rule R83: the ACK decoder on all eight codes. -/
def Obligations.AckDecoderIsExact : Prop :=
  ∀ b : BitVec 3, decodeAck b =
    if b = 0b001 then .ok else if b = 0b010 then .wait else if b = 0b100 then .fault else .unknown

/-- 30_encoding.md rule R58, bit by bit. -/
def Obligations.ReadWordIsTheTwoHalves : Prop :=
  ∀ (s1 s2 : Word) (i : Nat),
    (i < 16 → (readWord s1 s2).getLsbD i = s1.getLsbD i) ∧
    (16 ≤ i → i < 32 → (readWord s1 s2).getLsbD i = s2.getLsbD (i - 16)) ∧ readParity s2 = s2.getLsbD 16

/-- 30_encoding.md rule R59: the write frames, bit by bit. -/
def Obligations.WriteFramesCarryWordAndParity : Prop :=
  ∀ d : Word, ∃ lo hi : Frame, writeFrames d = [lo, hi] ∧ lo.len = 16 ∧ hi.len = 17 ∧
    (∀ i, i < 16 → lo.word.getLsbD i = d.getLsbD i ∧ hi.word.getLsbD i = d.getLsbD (16 + i)) ∧
    hi.word.getLsbD 16 = parityBit d ∧ (∀ i, 16 ≤ i → lo.word.getLsbD i = false) ∧ (∀ i, 17 ≤ i → hi.word.getLsbD i = false)

/-- A target that answers a read with the bits of write frames gives the written word back with a good parity (30_encoding.md rules
R58, R59, 41_codec.md rule R82). -/
def Obligations.WriteThenReadFramesRoundTrip : Prop :=
  ∀ (d : Word) (lo hi : Frame), writeFrames d = [lo, hi] →
    readWord lo.word hi.word = d ∧ parityOk (readWord lo.word hi.word) (readParity hi.word) = true

/-- 30_encoding.md rules R56 and R57: the ACK is the three target-driven bits of a header frame, so two header words that agree on those
give the same ACK. -/
def Obligations.AckReadsOnlyTargetBits : Prop :=
  ∀ (k : FrameKind) (x y : Word), k = .hdrR ∨ k = .hdrW →
    (∀ i, i < 13 → driver k false i = .target → x.getLsbD i = y.getLsbD i) →
    ∀ (free free' : BitVec 13), ackField (headerResponse (k == .hdrR) x free) = ackField (headerResponse (k == .hdrR) y free')

/-- 30_encoding.md rule R62: the command byte of each assembler line, and the offsets it refuses. -/
def Obligations.AssemblerWritesTheCommandBytes : Prop :=
  ∀ (off : Nat) (d : Word),
    (off ∈ [0x0, 0x4, 0x8, 0xC] →
      (assemble (.dpr off)).map encode = some (.command (0x04 ||| BitVec.ofNat 8 (off / 4) <<< 3) 0) ∧
      (assemble (.dpw off d)).map encode = some (.command (0x00 ||| BitVec.ofNat 8 (off / 4) <<< 3) d) ∧
      (assemble (.apr off)).map encode = some (.command (0x06 ||| BitVec.ofNat 8 (off / 4) <<< 3) 0) ∧
      (assemble (.apw off d)).map encode = some (.command (0x02 ||| BitVec.ofNat 8 (off / 4) <<< 3) d)) ∧
    (off ∉ [0x0, 0x4, 0x8, 0xC] →
      assemble (.dpr off) = none ∧ assemble (.dpw off d) = none ∧ assemble (.apr off) = none ∧ assemble (.apw off d) = none) ∧
    (assemble .lineReset).map encode = some (.command 0x20 0) ∧ (assemble .jtag2swd).map encode = some (.command 0x40 0) ∧
    (assemble .connect).map encode = some (.command 0x60 0)

/-! ## Transport and peripheral -/

/-- 40_transport.md rules R71 and R73: the capture shift undoes the raw layout, whatever the padding draw holds. -/
def Obligations.CaptureReturnsTheSampledBits : Prop :=
  ∀ (len : BitVec 5) (got pad : Word) (i : Nat), frameLenOk len = true →
    (captureShift (rawWord len got pad) len).getLsbD i = (decide (i < len.toNat) && got.getLsbD i)

/-- 40_transport.md rule R68: at call time a batch that finds too little space in either queue is answered CAPACITY, and no `rx`,
no queue and no trace entry changes. -/
def Obligations.CapacityErrorChangesNothing : Prop :=
  ∀ (fs : List Frame) (s : State), s.phase = .call → s.bitOrder = .lsbFirst →
    (∀ f ∈ fs, 1 ≤ f.len.toNat ∧ f.len.toNat ≤ 24) → (fs.length > 4 - s.txq.length ∨ fs.length > 4 - s.rxq.length) →
    ∃ t, exchange fs s = .capacity t ∧ t.slots.map Slot.rx = s.slots.map Slot.rx ∧
      t = { s with slots := t.slots, count := t.count }

/-- 40_transport.md rules R66 and R67: MSB_FIRST and a frame of length 0 or over 24 are refused at call time. -/
def Obligations.IllFormedExchangeIsRefused : Prop :=
  ∀ (fs : List Frame) (s : State), s.phase = .call →
    (s.bitOrder = .msbFirst → exchange fs s = .refused .msbFirst) ∧
    (s.bitOrder = .lsbFirst → (∃ f ∈ fs, f.len.toNat = 0 ∨ 24 < f.len.toNat) → exchange fs s = .refused .frameLength)

/-- 40_transport.md rules R65, R69, R70 and R76, up to the push. On an idle peripheral a good batch is written into the slot file, a Gap goes
to the trace and the frames' low bits to the transmit queue in slot order. A call with enough space on a busy peripheral writes the batch
and waits; the wait holds while the peripheral is busy, and then the batch is pushed. The empty batch waits in the same way and ends at
once, with an empty result and no trace entry (95_test_vectors.md K7). `phase` is where the model keeps the wait (log 6). -/
def Obligations.CallPushesTheBatchInOrder : Prop :=
  ∀ (fs : List Frame) (s : State), s.bitOrder = .lsbFirst → s.slots.length = 4 →
    (∀ f ∈ fs, 1 ≤ f.len.toNat ∧ f.len.toNat ≤ 24) →
    let pushed := fun (t : State) =>
      QueuedInOrder fs t.txq ∧ BatchInSlots fs t ∧ t.slots.drop fs.length = s.slots.drop fs.length ∧
      t = { s with trace := s.trace ++ [.gap], txq := t.txq, slots := t.slots, count := t.count, phase := .waitDone }
    (s.phase = .call → s.busy = false → fs ≠ [] → fs.length + s.rxq.length ≤ 4 →
      ∃ t, exchange fs s = .pending t ∧ pushed t) ∧
    (s.phase = .call → s.busy = true → fs.length ≤ 4 - s.txq.length → fs.length ≤ 4 - s.rxq.length →
      ∃ t, exchange fs s = .pending t ∧ BatchInSlots fs t ∧ t.slots.drop fs.length = s.slots.drop fs.length ∧
        t.slots.map Slot.rx = s.slots.map Slot.rx ∧
        t = { s with slots := t.slots, count := t.count, phase := .waitPush }) ∧
    (s.phase = .waitPush → s.busy = true → exchange fs s = .pending s) ∧
    (s.phase = .waitPush → s.busy = false → BatchInSlots fs s → fs ≠ [] → ∃ t, exchange fs s = .pending t ∧ pushed t) ∧
    (fs = [] → s.busy = false →
      (s.phase = .call → exchange fs s = .done { s with count := 0 } []) ∧
      (s.phase = .waitPush → s.count = 0 → exchange fs s = .done { s with phase := .call } []))

/-- 40_transport.md rule R72: after the second wait each populated slot, in slot order, gets its raw word shifted; too few raw words
fault. The raw words are the queue's first ones. -/
def Obligations.CaptureFillsTheSlotsInOrder : Prop :=
  ∀ (fs : List Frame) (s : State), s.phase = .waitDone → s.busy = false → s.count ≤ s.slots.length →
    (∀ sl ∈ s.slots.take s.count, sl.len ≠ none) →
    (s.rxq.length < s.count → exchange fs s = .fault .captureShort) ∧
    (s.count ≤ s.rxq.length → ∃ t samples, exchange fs s = .done t samples ∧ samples.length = s.count ∧
      t.rxq = s.rxq.drop s.count ∧ t.slots.drop s.count = s.slots.drop s.count ∧
      (∀ k sl len raw, k < s.count → s.slots[k]? = some sl → sl.len = some len → s.rxq[k]? = some raw →
        samples[k]? = some (raw >>> (32 - len.toNat)) ∧
        t.slots[k]? = some { sl with rx := some (raw >>> (32 - len.toNat)) }) ∧
      t = { s with slots := t.slots, rxq := t.rxq, phase := .call })

/-- 40_transport.md rule R71: a word at the head of the transmit queue is shifted out in one step to load it and one a cycle; the trace
gets its bits, low bit first, with the bits the target answered, and the receive queue a raw word whose top bits are the sampled ones. -/
def Obligations.PeripheralShiftsAWordOut : Prop :=
  ∀ (s : State) (f : Frame) (rest : List Frame), s.shifter = none → s.txq = f :: rest → frameLenOk f.len = true →
    s.rxq.length < 4 →
    ∃ (t : State) (inp raw : Word), tickN (f.len.toNat + 1) s = .next t ∧
      t.trace = s.trace ++ (List.range f.len.toNat).map (fun i => .cycle (f.word.getLsbD i) (inp.getLsbD i)) ∧
      (∀ i, i < f.len.toNat → raw.getLsbD (32 - f.len.toNat + i) = inp.getLsbD i) ∧
      t = { s with txq := rest, rxq := s.rxq ++ [raw], trace := t.trace, draws := t.draws }

/-- 20_memory.md rule R46: every cycle's sampled bit is the oracle's draw, which may depend on the trace so far. That the draw is the free
function `Config.targetBit` of the draw's number, the trace and the driven bit is the model's choice (log 2, DESIGN CHOICE). -/
def Obligations.SampledBitIsTheTargetsDraw : Prop :=
  ∀ (s t : State) (sh : Shifter), s.shifter = some sh → tick s = .next t →
    t.trace = s.trace ++
      [.cycle (sh.word.getLsbD sh.k) (Config.targetBit s.draws s.trace (sh.word.getLsbD sh.k))]

/-- 40_transport.md rule R75, 10_state.md rule R26: the peripheral's own steps touch nothing but its queues, its shifter, the trace and
the draw counter. -/
def Obligations.PeripheralTouchesNoRegister : Prop :=
  ∀ s t : State, tick s = .next t →
    t = { s with txq := t.txq, shifter := t.shifter, rxq := t.rxq, trace := t.trace, draws := t.draws }

/-! ## Acceptance, abort and response -/

/-- 42_engine.md rules R85 and R99 to R102, 10_state.md rules R12 and R18: in READY each TRANSFER command is accepted. The command byte is
written as in 30_encoding.md rule R62. The latched `wdata` reads after a write, and a read of it after a read command faults. -/
def Obligations.TransfersAreAccepted : Prop :=
  ∀ (s : State) (a : BitVec 2) (d : Word), s.st = .ready →
    let accepted := fun base : Byte =>
      { s with
        cmd := some (base ||| (a.setWidth 8 <<< 3)), wdata := some d, hdr := none, hresp := none, ack := none,
        rdata := none, rpar := none, outcome := none, seq := none, seqIdx := none, st := .sendHeader }
    exec (.dpr a d) s = .next (accepted 0x04) ∧ exec (.dpw a d) s = .next (accepted 0x00) ∧
    exec (.apr a d) s = .next (accepted 0x06) ∧ exec (.apw a d) s = .next (accepted 0x02) ∧
    (accepted 0x00).readWdata = .ok d ∧ (accepted 0x02).readWdata = .ok d ∧
    (accepted 0x04).readWdata = .error (.invalidRegister .wdata) ∧
    (accepted 0x06).readWdata = .error (.invalidRegister .wdata)

/-- 42_engine.md rule R85, 43_line.md rules R104 to R106, 10_state.md rule R12: in READY each line-control command is accepted with its sequence
of batches, and a read of the latched `wdata` faults. -/
def Obligations.LineControlIsAccepted : Prop :=
  ∀ (s : State) (d : Word), s.st = .ready →
    let lr : List Frame := [⟨0xFFFFFF, 24⟩, ⟨0xFFFFFF, 24⟩, ⟨0xFF, 8⟩, ⟨0x00, 8⟩]
    let sw : List Frame := [⟨0xE79E, 16⟩]
    let accepted := fun (c : Byte) (batches : List (List Frame)) =>
      { s with
        cmd := some c, wdata := some d, hdr := none, hresp := none, ack := none, rdata := none, rpar := none,
        outcome := none, seq := some batches, seqIdx := some 0, st := .sendSequence }
    exec (.lineReset d) s = .next (accepted 0x20 [lr]) ∧ exec (.switchToSwd d) s = .next (accepted 0x40 [sw]) ∧
    exec (.connect d) s = .next (accepted 0x60 [lr, sw, lr, lr, sw, lr]) ∧
    ∀ c ∈ [0x20#8, 0x40#8, 0x60#8], ∀ b, (accepted c b).readWdata = .error (.invalidRegister .wdata)

/-- 43_line.md rule R107: a reserved command word offered in READY is accepted and ends with BAD_COMMAND in FAULTED in the same step,
with no exchange and no wire activity. A good read of a response register in the same move changes nothing (log 24). -/
def Obligations.ReservedWordEndsInBadCommand : Prop :=
  ∀ (s : State), s.tornDown = false → s.peripheralMoves = false → readFault s = none → s.port.teardown = false →
    s.st = .ready → s.port.cmdValid = true → reservedCommand s.port.cmd = true →
    step s = .next (afterMove { s with
      cmd := some s.port.cmd, wdata := some s.port.wdata, hdr := none, hresp := none,
      ack := none, rdata := none, rpar := none, outcome := some 6, seq := none, seqIdx := none, st := .faulted })

/-- 42_engine.md rule R86: an abort writes the outcome code and goes through SEND_IDLE, but for the two codes that go to FAULTED at once. -/
def Obligations.AbortGoesThroughIdleOrNot : Prop :=
  ∀ s : State,
    s.abort .wait = { s with outcome := some 1, st := .sendIdle } ∧
    s.abort .fault = { s with outcome := some 2, st := .sendIdle } ∧
    s.abort .unknownAck = { s with outcome := some 3, st := .sendIdle } ∧
    s.abort .parityMismatch = { s with outcome := some 4, st := .sendIdle } ∧
    s.abort .transportCapacity = { s with outcome := some 5, st := .faulted } ∧
    s.abort .badCommand = { s with outcome := some 6, st := .faulted }

/-- 42_engine.md rule R93, 10_state.md rule R21: in DONE or FAULTED the engine holds everything until the host takes the response, and
then only `st` changes, to READY. A response register that the host reads in the same move, and that is valid, changes nothing (log 24 for the
order of a read and a take in one move). -/
def Obligations.ResponseIsHeldUntilTaken : Prop :=
  ∀ (s : State), s.tornDown = false → s.peripheralMoves = false → readFault s = none → s.port.teardown = false →
    s.st = .done ∨ s.st = .faulted →
    step s = .next (afterMove (if s.port.rspTake then { s with st := .ready } else s))

/-- 10_state.md rule R20: while the engine is not READY, what the host offers on the command port has no effect on the step. -/
def Obligations.OffersOutsideReadyHaveNoEffect : Prop :=
  ∀ (s : State) (v : Bool) (c : Byte) (d : Word), s.st ≠ .ready → s.peripheralMoves = false →
    step { s with port := { s.port with cmdValid := v, cmd := c, wdata := d } } = step s

/-- 10_state.md rules R19 and R21: what a read of the response port gives; an invalid register faults. -/
def Obligations.ResponsePortReadsOrFaults : Prop :=
  ∀ s : State, s.st = .done ∨ s.st = .faulted →
    s.rspRead .rdata = (match s.rdata with | some w => .ok w | none => .error (.invalidRegister .rdata)) ∧
    s.rspRead .ack = (match s.ack with | some a => .ok (a.setWidth 32) | none => .error (.invalidRegister .ack)) ∧
    s.rspRead .outcome =
      (match s.outcome with | some o => .ok (o.setWidth 32) | none => .error (.invalidRegister .outcome)) ∧
    s.rspRead .rpar =
      (match s.rpar with | some b => .ok (if b then 1 else 0) | none => .error (.invalidRegister .rpar))

/-! ## The engine's stages -/

/-- 42_engine.md rule R87 and 30_encoding.md rule R55, at the call: each header row, due in SEND_HEADER with an idle peripheral, writes
`hdr` and pushes its byte as a frame of 12 or 13 bits. That a header row is an instruction, whose meaning is the engine's SEND_HEADER step for
its byte when that byte is due, is the model's choice (log 11, DESIGN CHOICE); what the step does is R87's. -/
def Obligations.HeaderRowsSendTheirByte : Prop :=
  ∀ (s : State) (h : Byte), s.phase = .call → s.bitOrder = .lsbFirst → s.slots.length = 4 → s.txq = [] → s.shifter = none →
    s.rxq.length ≤ 3 → s.headerDue = some h →
    let sent := fun (len : BitVec 5) (t : State) =>
      t.hdr = some h ∧ t.txq = [⟨h.setWidth 32, len⟩] ∧ t.trace = s.trace ++ [.gap] ∧ t.st = .sendHeader ∧
      t = { s with hdr := t.hdr, slots := t.slots, count := 1, txq := t.txq, trace := t.trace, phase := .waitDone }
    (∀ a, h = buildHeader false true a →
      ∃ t, exec (.hdrDpRead a (headerParity false true a)) s = .next t ∧ sent 12 t) ∧
    (∀ a, h = buildHeader false false a →
      ∃ t, exec (.hdrDpWrite a (headerParity false false a)) s = .next t ∧ sent 13 t) ∧
    (∀ a, h = buildHeader true true a →
      ∃ t, exec (.hdrApRead a (headerParity true true a)) s = .next t ∧ sent 12 t) ∧
    (∀ a, h = buildHeader true false a →
      ∃ t, exec (.hdrApWrite a (headerParity true false a)) s = .next t ∧ sent 13 t)

/-- 42_engine.md rule R87, at the capture: the header row that was sent takes the sampled word into `hresp` and goes to AWAIT_ACK. The
capture is R87's; that a header row runs it is the model's choice (log 11, DESIGN CHOICE). Of `hresp` it says the ACK bits, and that bit 12 of a
12-bit frame's is 0; the bits at H and Z positions are a free value of the model (log 26, DESIGN CHOICE), where R87 assigns the sampled bits and
R46 lets no register receive them. -/
def Obligations.HeaderRowsTakeTheResponse : Prop :=
  ∀ (s : State) (i : Instr) (h : Byte) (sl : Slot) (rest : List Slot) (len : BitVec 5) (raw : Word) (raws : List Word),
    WellFormed i = true → encode i = .header h → s.headerDue = some h → s.phase = .waitDone → s.busy = false →
    s.count = 1 → s.slots = sl :: rest → sl.len = some len → s.rxq = raw :: raws →
    let x := raw >>> (32 - len.toNat)
    ∃ resp : BitVec 13, resp.extractLsb' 9 3 = x.extractLsb' 9 3 ∧ (h.getLsbD 2 = true → resp.getLsbD 12 = x.getLsbD 12) ∧
      exec i s = .next { s with
        hdr := some h, hresp := some resp, st := .awaitAck, slots := { sl with rx := some x } :: rest, rxq := raws,
        phase := .call }

/-- A TRANSFER in SEND_HEADER does what the header row of its request does. This is the model's choice of what a header row means (log 11, DESIGN
CHOICE), not a rule of the spec; it rests on 42_engine.md rule R87 (the header the engine sends) and 30_encoding.md rule R49 (the request bits
stand at the same places in both). -/
def Obligations.TransferSendsItsHeaderRow : Prop :=
  ∀ (s : State) (i j : Instr) (c h : Byte) (d : Word), s.st = .sendHeader → encode i = .command c d → isTransfer c = true →
    s.latched c d = true → WellFormed j = true → encode j = .header h → h.extractLsb' 1 4 = c.extractLsb' 1 4 →
    exec i s = exec j s

/-- 42_engine.md rule R88: AWAIT_ACK stores the ACK and goes on by its kind, with no wire activity. -/
def Obligations.AwaitAckGoesByTheKind : Prop :=
  ∀ (s : State) (i : Instr) (c : Byte) (d : Word) (h : BitVec 13), s.st = .awaitAck → encode i = .command c d →
    isTransfer c = true → s.latched c d = true → s.hresp = some h →
    let a := h.extractLsb' 9 3
    exec i s = .next (
      if a = 0b001 then { s with ack := some a, st := if c.getLsbD 2 then .sendReadData else .sendWriteData }
      else { s with
        ack := some a, st := .sendIdle, outcome := some (if a = 0b010 then 1 else if a = 0b100 then 2 else 3) })

/-- 42_engine.md rules R89 and R90: SEND_READ_DATA, when both frames have been sampled, writes `rdata` and `rpar` whatever the parity,
and the outcome by the parity check. -/
def Obligations.ReadDataIsAssembledAndChecked : Prop :=
  ∀ (s : State) (i : Instr) (c : Byte) (d : Word) (sl1 sl2 : Slot) (rest : List Slot) (r1 r2 : Word) (raws : List Word),
    s.st = .sendReadData → encode i = .command c d → isTransfer c = true → c.getLsbD 2 = true → s.cmd = some c →
    s.phase = .waitDone → s.busy = false → s.count = 2 → s.slots = sl1 :: sl2 :: rest →
    sl1.len = some 16 → sl2.len = some 17 → s.rxq = r1 :: r2 :: raws →
    let w := readWord (r1 >>> 16) (r2 >>> 15)
    let p := (r2 >>> 15).getLsbD 16
    exec i s = .next { s with
      rdata := some w, rpar := some p, outcome := some (if p = parityBit w then 0 else 4), st := .sendIdle,
      slots := { sl1 with rx := some (r1 >>> 16) } :: { sl2 with rx := some (r2 >>> 15) } :: rest, rxq := raws,
      phase := .call }

/-- 42_engine.md rule R91: SEND_WRITE_DATA, when both frames have been shifted, ends with outcome OK; `rdata` and `rpar` are not
written and the sampled words stay in the slots only. -/
def Obligations.WriteDataEndsOk : Prop :=
  ∀ (s : State) (i : Instr) (c : Byte) (d : Word) (sl1 sl2 : Slot) (rest : List Slot) (r1 r2 : Word) (raws : List Word),
    s.st = .sendWriteData → encode i = .command c d → isTransfer c = true → c.getLsbD 2 = false → s.cmd = some c →
    s.wdata = some d → s.phase = .waitDone → s.busy = false → s.count = 2 → s.slots = sl1 :: sl2 :: rest →
    sl1.len = some 16 → sl2.len = some 17 → s.rxq = r1 :: r2 :: raws →
    exec i s = .next { s with
      outcome := some 0, st := .sendIdle,
      slots := { sl1 with rx := some (r1 >>> 16) } :: { sl2 with rx := some (r2 >>> 15) } :: rest, rxq := raws,
      phase := .call }

/-- 42_engine.md rule R92: SEND_IDLE, when its frame has been shifted, ends the transaction in DONE exactly when the outcome is OK. -/
def Obligations.IdleEndsTheTransaction : Prop :=
  ∀ (s : State) (i : Instr) (c : Byte) (d : Word) (o : BitVec 3) (sl : Slot) (rest : List Slot) (raw : Word) (raws : List Word),
    s.st = .sendIdle → encode i = .command c d → isTransfer c = true → s.latched c d = true →
    s.outcome = some o → s.phase = .waitDone → s.busy = false → s.count = 1 → s.slots = sl :: rest → sl.len = some 8 →
    s.rxq = raw :: raws →
    exec i s = .next { s with
      st := (if o = 0 then .done else .faulted), slots := { sl with rx := some (raw >>> 24) } :: rest, rxq := raws,
      phase := .call }

/-- 40_transport.md rule R68, 42_engine.md rules R86, R87, R89, R91, R92, R94, 43_line.md rule R103, 60_exceptions.md rule R111: in every sending
state, a call whose batch does not fit the space of either queue ends the command with TRANSPORT_CAPACITY in FAULTED, replacing any outcome set
before. Nothing reaches the wire, and no result changes but `outcome`, and `hdr` in SEND_HEADER. That the slots' outgoing parts and the count
may be written first is the model's reading (log 8). -/
def Obligations.CapacityErrorEndsTheCommand : Prop :=
  ∀ (s : State) (i : Instr) (c : Byte) (d : Word) (b : List Frame), Inv s → encode i = .command c d → s.latched c d = true →
    s.phase = .call → s.dueBatch = some b → (b.length > 4 - s.txq.length ∨ b.length > 4 - s.rxq.length) →
    ∃ t, exec i s = .next t ∧ t.slots.map Slot.rx = s.slots.map Slot.rx ∧
      t.hdr = (if s.st = .sendHeader then some (headerOfCommand c) else s.hdr) ∧
      t = { s with hdr := t.hdr, slots := t.slots, count := t.count, outcome := some 5, st := .faulted }

/-- 43_line.md rule R103: SEND_SEQUENCE, when a batch has been shifted, counts it and ends OK in DONE after the last, whatever was sampled. -/
def Obligations.SequenceCountsItsBatches : Prop :=
  ∀ (s : State) (i : Instr) (c : Byte) (d : Word) (k : Nat) (batch : List Frame), Inv s → s.st = .sendSequence →
    encode i = .command c d → s.cmd = some c → s.seqIdx = some k → (sequenceOf c)[k]? = some batch →
    s.phase = .waitDone → s.busy = false →
    ∃ t, exec i s = .next t ∧ t.seqIdx = some (k + 1) ∧ t.phase = .call ∧ t.rxq = s.rxq.drop batch.length ∧
      (if k + 1 = (sequenceOf c).length then t.st = .done ∧ t.outcome = some 0
       else t.st = .sendSequence ∧ t.outcome = s.outcome) ∧
      t = { s with slots := t.slots, rxq := t.rxq, phase := t.phase, seqIdx := t.seqIdx, st := t.st, outcome := t.outcome }

/-! ## Frames -/

/-- What no instruction changes outside READY: the latched command, the configuration, the peripheral's shifter and the fields that are
the host's and the scheduler's (42_engine.md rule R94, 10_state.md rule R25). In READY only acceptance writes `cmd` and `wdata`. -/
def Obligations.ExecKeepsTheCommandAndTheConfiguration : Prop :=
  ∀ (i : Instr) (s t : State), exec i s = .next t →
    t.bitOrder = s.bitOrder ∧ t.shifter = s.shifter ∧ t.tornDown = s.tornDown ∧ t.port = s.port ∧ t.turn = s.turn ∧
    t.draws = s.draws ∧ (s.st ≠ .ready → t.cmd = s.cmd ∧ t.wdata = s.wdata ∧ t.seq = s.seq)

/-- 43_line.md rules R103 to R106: a line-control command in progress sets no `hdr`, `hresp`, `ack`, `rdata` or `rpar`. -/
def Obligations.LineControlSetsNoTransferResult : Prop :=
  ∀ (s t : State) (d : Word) (i : Instr), i = .lineReset d ∨ i = .switchToSwd d ∨ i = .connect d →
    exec i s = .next t → s.st ≠ .ready →
    t.hdr = s.hdr ∧ t.hresp = s.hresp ∧ t.ack = s.ack ∧ t.rdata = s.rdata ∧ t.rpar = s.rpar

/-- 42_engine.md rule R94, its column "writes": a TRANSFER in progress writes each result register in its own state only. -/
def Obligations.TransferWritesEachResultInItsState : Prop :=
  ∀ (s t : State) (a : BitVec 2) (d : Word) (i : Instr), i = .dpr a d ∨ i = .dpw a d ∨ i = .apr a d ∨ i = .apw a d →
    exec i s = .next t → s.st ≠ .ready →
    (s.st ≠ .sendHeader → t.hdr = s.hdr ∧ t.hresp = s.hresp) ∧ (s.st ≠ .awaitAck → t.ack = s.ack) ∧
    (s.st ≠ .sendReadData → t.rdata = s.rdata ∧ t.rpar = s.rpar) ∧ t.seq = s.seq ∧ t.seqIdx = s.seqIdx

/-! ## The step and the whole machine -/

/-- A step runs the decoded instruction: the offered command in READY, the latched command in the states of a command in progress, whatever data
word the encoding of a command that ignores its data carries. In SEND_HEADER it runs the header row of the byte that is due, which is the
model's choice (log 11, DESIGN CHOICE; TransferSendsItsHeaderRow says that the latched TRANSFER would do the same). A good read of a response register
in the same move changes nothing (log 24). `afterMove` (the host's
next lines, the turn and the draw counter: the model's own fields, log 4 and log 5) is all that the step adds. -/
def Obligations.StepRunsTheDecodedInstruction : Prop :=
  ∀ (s : State) (i : Instr), s.tornDown = false → s.peripheralMoves = false → readFault s = none → s.port.teardown = false →
    (s.st = .ready → s.port.cmdValid = true → decode (.command s.port.cmd s.port.wdata) = .ok i →
      step s = mapNext afterMove (exec i s)) ∧
    (∀ h, s.headerDue = some h → decode (.header h) = .ok i → step s = mapNext afterMove (exec i s)) ∧
    (∀ c d, s.st ∈ [.awaitAck, .sendReadData, .sendWriteData, .sendIdle, .sendSequence] → s.latched c d = true →
      decode (.command c d) = .ok i → step s = mapNext afterMove (exec i s))

/-- The word placed by `withFetchWord` is the instruction the next step runs, from any state. How words are placed is the model's
choice (log 11, log 13). -/
def Obligations.PlacedWordIsRunNext : Prop :=
  ∀ (s : State) (nbits w : Nat) (i : Instr), decodeTableWord nbits w = some i →
    step (s.withFetchWord nbits w) = mapNext afterMove (exec i (s.withFetchWord nbits w))

/-- 10_state.md rule R29, for every part of it that the block and the peripheral hold; nothing is said of the model's own fields (log 21). -/
def Obligations.ResetIsTheInitialisedState : Prop :=
  State.reset.st = .ready ∧ State.reset.cmd = none ∧ State.reset.wdata = none ∧ State.reset.hdr = none ∧
  State.reset.hresp = none ∧ State.reset.ack = none ∧ State.reset.rdata = none ∧ State.reset.rpar = none ∧
  State.reset.outcome = none ∧ State.reset.seq = none ∧ State.reset.seqIdx = none ∧ State.reset.count = 0 ∧
  State.reset.slots = List.replicate 4 ⟨none, none, none⟩ ∧ State.reset.bitOrder = .lsbFirst ∧
  State.reset.txq = [] ∧ State.reset.rxq = [] ∧ State.reset.shifter = none ∧ State.reset.busy = false ∧
  State.reset.trace = [] ∧ State.reset.cmdReady = true ∧ State.reset.rspValid = false

/-- 42_engine.md rule R94 and 43_line.md rule R103: no step takes the engine from one state to another but by a listed transition. -/
def Obligations.EngineMovesOnlyByListedTransitions : Prop :=
  ∀ s t : State, step s = .next t → t.st = s.st ∨ engineEdge s.st t.st = true

/-- 10_state.md rule R27, 20_memory.md rule R42: no step takes an event back from the wire trace or changes one. -/
def Obligations.TraceOnlyGrows : Prop :=
  ∀ s t : State, step s = .next t → ∃ events, t.trace = s.trace ++ events

/-- 20_memory.md rule R40, 42_engine.md rules R85 and R94: no step but an acceptance (the engine's move in READY with a command offered and no
teardown) changes the command being run or its data, and in READY with nothing offered the engine's move writes nothing, a good read of a response register in it included. That an offer in the
same move as a teardown is not accepted is the model's choice (log 24, DESIGN CHOICE): the spec does not order the two. `afterMove` (log 4,
log 5: the model's own fields) is all the step adds. -/
def Obligations.CommandIsFixedUntilTheNextAcceptance : Prop :=
  (∀ s t : State, step s = .next t →
    ¬ (s.st = .ready ∧ s.port.cmdValid = true ∧ s.peripheralMoves = false ∧ s.port.teardown = false) →
    t.cmd = s.cmd ∧ t.wdata = s.wdata) ∧
  (∀ s : State, s.tornDown = false → s.peripheralMoves = false → readFault s = none → s.port.teardown = false →
    s.st = .ready → s.port.cmdValid = false → step s = .next (afterMove s))

/-- 70_reset_and_hazards.md rule R124: a teardown with no command in progress only marks the block as torn down, and after it the model has no
further steps. That the teardown is a flag, and that one in mid-command, which R124 calls not possible, is refused by name, is the model's
reading (log 10, DEDUCED). That an offer or a take asked for in the same move does not happen, and that a read comes before the teardown, is the
model's choice of an order that the spec does not give (log 24, DESIGN CHOICE). `afterMove` (log 4, log 5: the model's own fields) is all the step adds. -/
def Obligations.NoStepAfterTeardown : Prop :=
  (∀ s : State, s.tornDown = true → step s = .refused .afterTeardown) ∧
  (∀ s : State, s.tornDown = false → s.peripheralMoves = false → readFault s = none → s.port.teardown = true →
    (s.st ∈ [.ready, .done, .faulted] → step s = .next (afterMove { s with tornDown := true })) ∧
    (s.st ∉ [.ready, .done, .faulted] → step s = .refused .teardownInProgress))

/-- The invariant holds after initialisation (10_state.md rule R29). -/
def Obligations.ResetMeetsTheInvariant : Prop := Inv State.reset ∧ Exclusive State.reset

/-- Every step keeps the invariant: queue levels, frame lengths, LSB_FIRST, and for each engine state which command is latched and which
results are valid, the table of 10_state.md rule R19 among them. -/
def Obligations.StepKeepsTheInvariant : Prop :=
  ∀ s t : State, Inv s → step s = .next t → Inv t

/-- Every step keeps exclusive ownership: the peripheral holds exactly the batch in flight, and nothing between exchanges
(40_transport.md rule R74). -/
def Obligations.StepKeepsExclusiveOwnership : Prop :=
  ∀ s t : State, Exclusive s → step s = .next t → Exclusive t

/-- 40_transport.md rule R74: under exclusive ownership no step ends a command with TRANSPORT_CAPACITY, and no step loses a received
word. -/
def Obligations.NoCapacityErrorUnderExclusiveOwnership : Prop :=
  ∀ s : State, Exclusive s → step s ≠ .fault .rxOverflow ∧
    ∀ t, step s = .next t → t.outcome = some 5 → s.outcome = some 5

/-- Under the invariant the block itself never stops (40_transport.md rule R72, 42_engine.md rule R94): a step of a block that is not torn down, whose
host keeps the port's duties, answers a next state, or a raw word met a receive queue that was already full (a shared peripheral; that the model
then stops is its choice, log 7, DESIGN CHOICE), or the host read a response register that is invalid, and the fault names that register
(10_state.md rule R21). -/
def Obligations.BlockNeverStopsItself : Prop :=
  ∀ s : State, Inv s → s.tornDown = false → HostObeys s →
    (∃ t, step s = .next t) ∨ (step s = .fault .rxOverflow ∧ s.rxq.length = 4) ∨
      ∃ r, s.port.read = some r ∧ s.rspRead r = .error (.invalidRegister (rspRegName r)) ∧
        step s = .fault (.invalidRegister (rspRegName r))

/-- 40_transport.md rules R65, R69, 42_engine.md rule R94 ("peripheral stays busy": writes none, the same state): while the peripheral is busy, no
instruction gives it work, takes a received word or reaches the wire; and once an exchange is under way in a sending state, no instruction writes
anything at all, so a busy wait ends only by the peripheral's own moves. The premise `Inv` rules out only states that no run reaches, such as an
exchange under way in SEND_HEADER with no `hdr`. -/
def Obligations.EngineWaitsForTheBusyPeripheral : Prop :=
  (∀ (i : Instr) (s t : State), s.busy = true → exec i s = .next t →
    t.txq = s.txq ∧ t.shifter = s.shifter ∧ t.rxq = s.rxq ∧ t.trace = s.trace) ∧
  (∀ (i : Instr) (s : State), Inv s → s.busy = true → s.phase ≠ .call →
    s.st ∈ [.sendHeader, .sendReadData, .sendWriteData, .sendIdle, .sendSequence] → exec i s = .next s)

/-- 40_transport.md rules R69, R71: the peripheral's moves come to an end, at most 25 for a word, and then every word it held stands in the
receive queue behind those already there. The bound on the words held is what exclusive ownership gives (rule R74). -/
def Obligations.PeripheralDrainsInBoundedMoves : Prop :=
  ∀ s : State, Inv s → s.wordsHeld ≤ 4 →
    ∃ (n : Nat) (t : State) (raws : List Word), n ≤ 25 * (s.txq.length + 1) ∧ tickN n s = .next t ∧ t.busy = false ∧
      s.rxq.length + raws.length = s.wordsHeld ∧
      t = { s with txq := [], shifter := none, rxq := s.rxq ++ raws, trace := t.trace, draws := t.draws }

/-- 70_reset_and_hazards.md rule R128, 30_encoding.md rule R63: where the premise TARGET_EVENTUALLY_ACCEPTS may be applied (no FAULT uncleared,
20_memory.md rule R48), `RETRY` of a command ends, at the first response whose outcome is not WAIT (1). The tries are responses that the machine
gives to that command, a capacity error among them, with or without an ACK. -/
def Obligations.RetryEndsUnderThePremise : Prop :=
  ∀ (v : TargetView) (c : Byte) (tries : Nat → Response), (∀ k, GivenTo c (tries k)) → v.premised = true →
    TargetEventuallyAccepts v tries →
    ∃ n, (∀ k, k < n → (tries k).outcome = 1) ∧ (tries n).outcome ≠ 1 ∧
      ∀ m, n < m → retryResponses ((List.range m).map tries) = (List.range (n + 1)).map tries

/-! ## Whole commands -/

/-- 42_engine.md rules R99, R101, 30_encoding.md rule R60: a read TRANSFER runs from READY to its end. The wire shows its header frame, then
for an OK ACK the read-fill frames, then the idle frame, and nothing else; the results are those of the bits sampled. The run is
`advance`'s: no foreign agent moves (log 17) and the peripheral moves whenever it is busy, a fair schedule of the model's (log 4), else the
engine with this instruction. -/
def Obligations.ReadTransferRunsToItsEnd : Prop :=
  ∀ (s : State) (ap : Bool) (a : BitVec 2) (d : Word), s.st = .ready → s.Quiet → s.bitOrder = .lsbFirst →
    s.slots.length = 4 →
    ∃ (n : Nat) (t : State) (h s1 s2 z : Word) (k : BitVec 3),
      advanceN (if ap then .apr a d else .dpr a d) n s = .next t ∧ t.Quiet ∧
      k = h.extractLsb' 9 3 ∧ t.hdr = some (buildHeader ap true a) ∧ t.hresp.map (·.extractLsb' 9 3) = some k ∧ t.ack = some k ∧
      (decodeAck k = .ok →
        t.trace = s.trace ++ batchEvents [⟨(buildHeader ap true a).setWidth 32, 12⟩] [h]
          ++ batchEvents [⟨0xFFFF, 16⟩, ⟨0x1FFFF, 17⟩] [s1, s2] ++ batchEvents [⟨0, 8⟩] [z] ∧
        cycleCount t.trace = cycleCount s.trace + 53 ∧
        t.rdata = some (readWord s1 s2) ∧ t.rpar = some (readParity s2) ∧
        (parityOk (readWord s1 s2) (readParity s2) = true → t.outcome = some 0 ∧ t.st = .done) ∧
        (parityOk (readWord s1 s2) (readParity s2) = false → t.outcome = some 4 ∧ t.st = .faulted)) ∧
      (decodeAck k ≠ .ok →
        t.trace = s.trace ++ batchEvents [⟨(buildHeader ap true a).setWidth 32, 12⟩] [h] ++ batchEvents [⟨0, 8⟩] [z] ∧
        cycleCount t.trace = cycleCount s.trace + 20 ∧
        t.rdata = none ∧ t.rpar = none ∧ t.outcome = some (ackOutcome k) ∧ t.st = .faulted)

/-- 42_engine.md rules R100, R102, 30_encoding.md rule R60: a write TRANSFER runs from READY to its end. The run is `advance`'s: no foreign
agent moves (log 17) and the peripheral moves whenever it is busy, a fair schedule of the model's (log 4), else the engine with this
instruction. -/
def Obligations.WriteTransferRunsToItsEnd : Prop :=
  ∀ (s : State) (ap : Bool) (a : BitVec 2) (d : Word), s.st = .ready → s.Quiet → s.bitOrder = .lsbFirst →
    s.slots.length = 4 →
    ∃ (n : Nat) (t : State) (h s1 s2 z : Word) (k : BitVec 3),
      advanceN (if ap then .apw a d else .dpw a d) n s = .next t ∧ t.Quiet ∧
      k = h.extractLsb' 9 3 ∧ t.hdr = some (buildHeader ap false a) ∧ t.hresp.map (·.extractLsb' 9 3) = some k ∧ t.ack = some k ∧
      t.rdata = none ∧ t.rpar = none ∧
      (decodeAck k = .ok →
        t.trace = s.trace ++ batchEvents [⟨(buildHeader ap false a).setWidth 32, 13⟩] [h]
          ++ batchEvents (writeFrames d) [s1, s2] ++ batchEvents [⟨0, 8⟩] [z] ∧
        cycleCount t.trace = cycleCount s.trace + 54 ∧ t.outcome = some 0 ∧ t.st = .done) ∧
      (decodeAck k ≠ .ok →
        t.trace = s.trace ++ batchEvents [⟨(buildHeader ap false a).setWidth 32, 13⟩] [h] ++ batchEvents [⟨0, 8⟩] [z] ∧
        cycleCount t.trace = cycleCount s.trace + 21 ∧ t.outcome = some (ackOutcome k) ∧ t.st = .faulted)

/-- 43_line.md rules R104 to R106, 30_encoding.md rule R60: a line-control command runs from READY to DONE with outcome OK, whatever is
sampled; the wire shows its batches in order and nothing else. The run is `advance`'s: no foreign agent moves (log 17) and the
peripheral moves whenever it is busy, a fair schedule of the model's (log 4), else the engine with this instruction. -/
def Obligations.LineControlRunsToItsEnd : Prop :=
  ∀ (s : State) (d : Word) (i : Instr) (c : Byte) (cycles : Nat), s.st = .ready → s.Quiet → s.bitOrder = .lsbFirst →
    s.slots.length = 4 →
    (i, c, cycles) ∈ [(.lineReset d, 0x20, 64), (.switchToSwd d, 0x40, 16), (.connect d, 0x60, 288)] →
    ∃ (n : Nat) (t : State) (inps : List (List Word)),
      advanceN i n s = .next t ∧ t.Quiet ∧ t.st = .done ∧ t.outcome = some 0 ∧ t.ack = none ∧ t.rdata = none ∧
      t.rpar = none ∧ t.hdr = none ∧ t.hresp = none ∧
      inps.map List.length = (sequenceOf c).map List.length ∧
      t.trace = s.trace ++ (List.zipWith batchEvents (sequenceOf c) inps).flatten ∧
      cycleCount t.trace = cycleCount s.trace + cycles
end

