-- ==== Sys2Proof/Laws/State.lean ====
section
/-!
SUPPORT. What each named update of the state leaves in each field: one lemma per field per update, so that no proof unfolds a record
update.
-/

namespace Sys2Proof.Machine

/-! ### invalidateResults -/

@[simp] theorem State.invalidateResults_st (s : State) : s.invalidateResults.st = s.st := rfl
@[simp] theorem State.invalidateResults_cmd (s : State) : s.invalidateResults.cmd = s.cmd := rfl
@[simp] theorem State.invalidateResults_wdata (s : State) : s.invalidateResults.wdata = s.wdata := rfl
@[simp] theorem State.invalidateResults_hdr (s : State) : s.invalidateResults.hdr = none := rfl
@[simp] theorem State.invalidateResults_hresp (s : State) : s.invalidateResults.hresp = none := rfl
@[simp] theorem State.invalidateResults_ack (s : State) : s.invalidateResults.ack = none := rfl
@[simp] theorem State.invalidateResults_rdata (s : State) : s.invalidateResults.rdata = none := rfl
@[simp] theorem State.invalidateResults_rpar (s : State) : s.invalidateResults.rpar = none := rfl
@[simp] theorem State.invalidateResults_outcome (s : State) : s.invalidateResults.outcome = none := rfl
@[simp] theorem State.invalidateResults_seq (s : State) : s.invalidateResults.seq = none := rfl
@[simp] theorem State.invalidateResults_seqIdx (s : State) : s.invalidateResults.seqIdx = none := rfl
@[simp] theorem State.invalidateResults_slots (s : State) : s.invalidateResults.slots = s.slots := rfl
@[simp] theorem State.invalidateResults_count (s : State) : s.invalidateResults.count = s.count := rfl
@[simp] theorem State.invalidateResults_bitOrder (s : State) : s.invalidateResults.bitOrder = s.bitOrder := rfl
@[simp] theorem State.invalidateResults_phase (s : State) : s.invalidateResults.phase = s.phase := rfl
@[simp] theorem State.invalidateResults_txq (s : State) : s.invalidateResults.txq = s.txq := rfl
@[simp] theorem State.invalidateResults_shifter (s : State) : s.invalidateResults.shifter = s.shifter := rfl
@[simp] theorem State.invalidateResults_rxq (s : State) : s.invalidateResults.rxq = s.rxq := rfl
@[simp] theorem State.invalidateResults_trace (s : State) : s.invalidateResults.trace = s.trace := rfl
@[simp] theorem State.invalidateResults_tornDown (s : State) : s.invalidateResults.tornDown = s.tornDown := rfl
@[simp] theorem State.invalidateResults_port (s : State) : s.invalidateResults.port = s.port := rfl
@[simp] theorem State.invalidateResults_turn (s : State) : s.invalidateResults.turn = s.turn := rfl
@[simp] theorem State.invalidateResults_draws (s : State) : s.invalidateResults.draws = s.draws := rfl

/-! ### accept -/

@[simp] theorem State.accept_st (s : State) (c : Byte) (d : Word) : (s.accept c d).st = s.st := rfl
@[simp] theorem State.accept_cmd (s : State) (c : Byte) (d : Word) : (s.accept c d).cmd = some c := rfl
@[simp] theorem State.accept_wdata (s : State) (c : Byte) (d : Word) : (s.accept c d).wdata = some d := rfl
@[simp] theorem State.accept_hdr (s : State) (c : Byte) (d : Word) : (s.accept c d).hdr = none := rfl
@[simp] theorem State.accept_hresp (s : State) (c : Byte) (d : Word) : (s.accept c d).hresp = none := rfl
@[simp] theorem State.accept_ack (s : State) (c : Byte) (d : Word) : (s.accept c d).ack = none := rfl
@[simp] theorem State.accept_rdata (s : State) (c : Byte) (d : Word) : (s.accept c d).rdata = none := rfl
@[simp] theorem State.accept_rpar (s : State) (c : Byte) (d : Word) : (s.accept c d).rpar = none := rfl
@[simp] theorem State.accept_outcome (s : State) (c : Byte) (d : Word) : (s.accept c d).outcome = none := rfl
@[simp] theorem State.accept_seq (s : State) (c : Byte) (d : Word) : (s.accept c d).seq = none := rfl
@[simp] theorem State.accept_seqIdx (s : State) (c : Byte) (d : Word) : (s.accept c d).seqIdx = none := rfl
@[simp] theorem State.accept_slots (s : State) (c : Byte) (d : Word) : (s.accept c d).slots = s.slots := rfl
@[simp] theorem State.accept_count (s : State) (c : Byte) (d : Word) : (s.accept c d).count = s.count := rfl
@[simp] theorem State.accept_bitOrder (s : State) (c : Byte) (d : Word) : (s.accept c d).bitOrder = s.bitOrder := rfl
@[simp] theorem State.accept_phase (s : State) (c : Byte) (d : Word) : (s.accept c d).phase = s.phase := rfl
@[simp] theorem State.accept_txq (s : State) (c : Byte) (d : Word) : (s.accept c d).txq = s.txq := rfl
@[simp] theorem State.accept_shifter (s : State) (c : Byte) (d : Word) : (s.accept c d).shifter = s.shifter := rfl
@[simp] theorem State.accept_rxq (s : State) (c : Byte) (d : Word) : (s.accept c d).rxq = s.rxq := rfl
@[simp] theorem State.accept_trace (s : State) (c : Byte) (d : Word) : (s.accept c d).trace = s.trace := rfl
@[simp] theorem State.accept_tornDown (s : State) (c : Byte) (d : Word) : (s.accept c d).tornDown = s.tornDown := rfl
@[simp] theorem State.accept_port (s : State) (c : Byte) (d : Word) : (s.accept c d).port = s.port := rfl
@[simp] theorem State.accept_turn (s : State) (c : Byte) (d : Word) : (s.accept c d).turn = s.turn := rfl
@[simp] theorem State.accept_draws (s : State) (c : Byte) (d : Word) : (s.accept c d).draws = s.draws := rfl

/-! ### abort -/

@[simp] theorem State.abort_st (s : State) (e : AbortCode) : (s.abort e).st = e.next := rfl
@[simp] theorem State.abort_cmd (s : State) (e : AbortCode) : (s.abort e).cmd = s.cmd := rfl
@[simp] theorem State.abort_wdata (s : State) (e : AbortCode) : (s.abort e).wdata = s.wdata := rfl
@[simp] theorem State.abort_hdr (s : State) (e : AbortCode) : (s.abort e).hdr = s.hdr := rfl
@[simp] theorem State.abort_hresp (s : State) (e : AbortCode) : (s.abort e).hresp = s.hresp := rfl
@[simp] theorem State.abort_ack (s : State) (e : AbortCode) : (s.abort e).ack = s.ack := rfl
@[simp] theorem State.abort_rdata (s : State) (e : AbortCode) : (s.abort e).rdata = s.rdata := rfl
@[simp] theorem State.abort_rpar (s : State) (e : AbortCode) : (s.abort e).rpar = s.rpar := rfl
@[simp] theorem State.abort_outcome (s : State) (e : AbortCode) : (s.abort e).outcome = some e.code := rfl
@[simp] theorem State.abort_seq (s : State) (e : AbortCode) : (s.abort e).seq = s.seq := rfl
@[simp] theorem State.abort_seqIdx (s : State) (e : AbortCode) : (s.abort e).seqIdx = s.seqIdx := rfl
@[simp] theorem State.abort_slots (s : State) (e : AbortCode) : (s.abort e).slots = s.slots := rfl
@[simp] theorem State.abort_count (s : State) (e : AbortCode) : (s.abort e).count = s.count := rfl
@[simp] theorem State.abort_bitOrder (s : State) (e : AbortCode) : (s.abort e).bitOrder = s.bitOrder := rfl
@[simp] theorem State.abort_phase (s : State) (e : AbortCode) : (s.abort e).phase = s.phase := rfl
@[simp] theorem State.abort_txq (s : State) (e : AbortCode) : (s.abort e).txq = s.txq := rfl
@[simp] theorem State.abort_shifter (s : State) (e : AbortCode) : (s.abort e).shifter = s.shifter := rfl
@[simp] theorem State.abort_rxq (s : State) (e : AbortCode) : (s.abort e).rxq = s.rxq := rfl
@[simp] theorem State.abort_trace (s : State) (e : AbortCode) : (s.abort e).trace = s.trace := rfl
@[simp] theorem State.abort_tornDown (s : State) (e : AbortCode) : (s.abort e).tornDown = s.tornDown := rfl
@[simp] theorem State.abort_port (s : State) (e : AbortCode) : (s.abort e).port = s.port := rfl
@[simp] theorem State.abort_turn (s : State) (e : AbortCode) : (s.abort e).turn = s.turn := rfl
@[simp] theorem State.abort_draws (s : State) (e : AbortCode) : (s.abort e).draws = s.draws := rfl

/-! ### takeResponse -/

@[simp] theorem State.takeResponse_st (s : State) : s.takeResponse.st = .ready := rfl
@[simp] theorem State.takeResponse_cmd (s : State) : s.takeResponse.cmd = s.cmd := rfl
@[simp] theorem State.takeResponse_wdata (s : State) : s.takeResponse.wdata = s.wdata := rfl
@[simp] theorem State.takeResponse_hdr (s : State) : s.takeResponse.hdr = s.hdr := rfl
@[simp] theorem State.takeResponse_hresp (s : State) : s.takeResponse.hresp = s.hresp := rfl
@[simp] theorem State.takeResponse_ack (s : State) : s.takeResponse.ack = s.ack := rfl
@[simp] theorem State.takeResponse_rdata (s : State) : s.takeResponse.rdata = s.rdata := rfl
@[simp] theorem State.takeResponse_rpar (s : State) : s.takeResponse.rpar = s.rpar := rfl
@[simp] theorem State.takeResponse_outcome (s : State) : s.takeResponse.outcome = s.outcome := rfl
@[simp] theorem State.takeResponse_seq (s : State) : s.takeResponse.seq = s.seq := rfl
@[simp] theorem State.takeResponse_seqIdx (s : State) : s.takeResponse.seqIdx = s.seqIdx := rfl
@[simp] theorem State.takeResponse_slots (s : State) : s.takeResponse.slots = s.slots := rfl
@[simp] theorem State.takeResponse_count (s : State) : s.takeResponse.count = s.count := rfl
@[simp] theorem State.takeResponse_bitOrder (s : State) : s.takeResponse.bitOrder = s.bitOrder := rfl
@[simp] theorem State.takeResponse_phase (s : State) : s.takeResponse.phase = s.phase := rfl
@[simp] theorem State.takeResponse_txq (s : State) : s.takeResponse.txq = s.txq := rfl
@[simp] theorem State.takeResponse_shifter (s : State) : s.takeResponse.shifter = s.shifter := rfl
@[simp] theorem State.takeResponse_rxq (s : State) : s.takeResponse.rxq = s.rxq := rfl
@[simp] theorem State.takeResponse_trace (s : State) : s.takeResponse.trace = s.trace := rfl
@[simp] theorem State.takeResponse_tornDown (s : State) : s.takeResponse.tornDown = s.tornDown := rfl
@[simp] theorem State.takeResponse_port (s : State) : s.takeResponse.port = s.port := rfl
@[simp] theorem State.takeResponse_turn (s : State) : s.takeResponse.turn = s.turn := rfl
@[simp] theorem State.takeResponse_draws (s : State) : s.takeResponse.draws = s.draws := rfl

/-! ### acceptTransfer -/

@[simp] theorem State.acceptTransfer_st (s : State) (c : Byte) (d : Word) : (s.acceptTransfer c d).st = .sendHeader := rfl
@[simp] theorem State.acceptTransfer_cmd (s : State) (c : Byte) (d : Word) : (s.acceptTransfer c d).cmd = some c := rfl
@[simp] theorem State.acceptTransfer_wdata (s : State) (c : Byte) (d : Word) : (s.acceptTransfer c d).wdata = some d := rfl
@[simp] theorem State.acceptTransfer_hdr (s : State) (c : Byte) (d : Word) : (s.acceptTransfer c d).hdr = none := rfl
@[simp] theorem State.acceptTransfer_hresp (s : State) (c : Byte) (d : Word) : (s.acceptTransfer c d).hresp = none := rfl
@[simp] theorem State.acceptTransfer_ack (s : State) (c : Byte) (d : Word) : (s.acceptTransfer c d).ack = none := rfl
@[simp] theorem State.acceptTransfer_rdata (s : State) (c : Byte) (d : Word) : (s.acceptTransfer c d).rdata = none := rfl
@[simp] theorem State.acceptTransfer_rpar (s : State) (c : Byte) (d : Word) : (s.acceptTransfer c d).rpar = none := rfl
@[simp] theorem State.acceptTransfer_outcome (s : State) (c : Byte) (d : Word) : (s.acceptTransfer c d).outcome = none := rfl
@[simp] theorem State.acceptTransfer_seq (s : State) (c : Byte) (d : Word) : (s.acceptTransfer c d).seq = none := rfl
@[simp] theorem State.acceptTransfer_seqIdx (s : State) (c : Byte) (d : Word) : (s.acceptTransfer c d).seqIdx = none := rfl
@[simp] theorem State.acceptTransfer_slots (s : State) (c : Byte) (d : Word) : (s.acceptTransfer c d).slots = s.slots := rfl
@[simp] theorem State.acceptTransfer_count (s : State) (c : Byte) (d : Word) : (s.acceptTransfer c d).count = s.count := rfl
@[simp] theorem State.acceptTransfer_bitOrder (s : State) (c : Byte) (d : Word) : (s.acceptTransfer c d).bitOrder = s.bitOrder := rfl
@[simp] theorem State.acceptTransfer_phase (s : State) (c : Byte) (d : Word) : (s.acceptTransfer c d).phase = s.phase := rfl
@[simp] theorem State.acceptTransfer_txq (s : State) (c : Byte) (d : Word) : (s.acceptTransfer c d).txq = s.txq := rfl
@[simp] theorem State.acceptTransfer_shifter (s : State) (c : Byte) (d : Word) : (s.acceptTransfer c d).shifter = s.shifter := rfl
@[simp] theorem State.acceptTransfer_rxq (s : State) (c : Byte) (d : Word) : (s.acceptTransfer c d).rxq = s.rxq := rfl
@[simp] theorem State.acceptTransfer_trace (s : State) (c : Byte) (d : Word) : (s.acceptTransfer c d).trace = s.trace := rfl
@[simp] theorem State.acceptTransfer_tornDown (s : State) (c : Byte) (d : Word) : (s.acceptTransfer c d).tornDown = s.tornDown := rfl
@[simp] theorem State.acceptTransfer_port (s : State) (c : Byte) (d : Word) : (s.acceptTransfer c d).port = s.port := rfl
@[simp] theorem State.acceptTransfer_turn (s : State) (c : Byte) (d : Word) : (s.acceptTransfer c d).turn = s.turn := rfl
@[simp] theorem State.acceptTransfer_draws (s : State) (c : Byte) (d : Word) : (s.acceptTransfer c d).draws = s.draws := rfl

/-! ### acceptSequence -/

@[simp] theorem State.acceptSequence_st (s : State) (c : Byte) (d : Word) (b : List (List Frame)) : (s.acceptSequence c d b).st = .sendSequence := rfl
@[simp] theorem State.acceptSequence_cmd (s : State) (c : Byte) (d : Word) (b : List (List Frame)) : (s.acceptSequence c d b).cmd = some c := rfl
@[simp] theorem State.acceptSequence_wdata (s : State) (c : Byte) (d : Word) (b : List (List Frame)) : (s.acceptSequence c d b).wdata = some d := rfl
@[simp] theorem State.acceptSequence_hdr (s : State) (c : Byte) (d : Word) (b : List (List Frame)) : (s.acceptSequence c d b).hdr = none := rfl
@[simp] theorem State.acceptSequence_hresp (s : State) (c : Byte) (d : Word) (b : List (List Frame)) : (s.acceptSequence c d b).hresp = none := rfl
@[simp] theorem State.acceptSequence_ack (s : State) (c : Byte) (d : Word) (b : List (List Frame)) : (s.acceptSequence c d b).ack = none := rfl
@[simp] theorem State.acceptSequence_rdata (s : State) (c : Byte) (d : Word) (b : List (List Frame)) : (s.acceptSequence c d b).rdata = none := rfl
@[simp] theorem State.acceptSequence_rpar (s : State) (c : Byte) (d : Word) (b : List (List Frame)) : (s.acceptSequence c d b).rpar = none := rfl
@[simp] theorem State.acceptSequence_outcome (s : State) (c : Byte) (d : Word) (b : List (List Frame)) : (s.acceptSequence c d b).outcome = none := rfl
@[simp] theorem State.acceptSequence_seq (s : State) (c : Byte) (d : Word) (b : List (List Frame)) : (s.acceptSequence c d b).seq = some b := rfl
@[simp] theorem State.acceptSequence_seqIdx (s : State) (c : Byte) (d : Word) (b : List (List Frame)) : (s.acceptSequence c d b).seqIdx = some 0 := rfl
@[simp] theorem State.acceptSequence_slots (s : State) (c : Byte) (d : Word) (b : List (List Frame)) : (s.acceptSequence c d b).slots = s.slots := rfl
@[simp] theorem State.acceptSequence_count (s : State) (c : Byte) (d : Word) (b : List (List Frame)) : (s.acceptSequence c d b).count = s.count := rfl
@[simp] theorem State.acceptSequence_bitOrder (s : State) (c : Byte) (d : Word) (b : List (List Frame)) : (s.acceptSequence c d b).bitOrder = s.bitOrder := rfl
@[simp] theorem State.acceptSequence_phase (s : State) (c : Byte) (d : Word) (b : List (List Frame)) : (s.acceptSequence c d b).phase = s.phase := rfl
@[simp] theorem State.acceptSequence_txq (s : State) (c : Byte) (d : Word) (b : List (List Frame)) : (s.acceptSequence c d b).txq = s.txq := rfl
@[simp] theorem State.acceptSequence_shifter (s : State) (c : Byte) (d : Word) (b : List (List Frame)) : (s.acceptSequence c d b).shifter = s.shifter := rfl
@[simp] theorem State.acceptSequence_rxq (s : State) (c : Byte) (d : Word) (b : List (List Frame)) : (s.acceptSequence c d b).rxq = s.rxq := rfl
@[simp] theorem State.acceptSequence_trace (s : State) (c : Byte) (d : Word) (b : List (List Frame)) : (s.acceptSequence c d b).trace = s.trace := rfl
@[simp] theorem State.acceptSequence_tornDown (s : State) (c : Byte) (d : Word) (b : List (List Frame)) : (s.acceptSequence c d b).tornDown = s.tornDown := rfl
@[simp] theorem State.acceptSequence_port (s : State) (c : Byte) (d : Word) (b : List (List Frame)) : (s.acceptSequence c d b).port = s.port := rfl
@[simp] theorem State.acceptSequence_turn (s : State) (c : Byte) (d : Word) (b : List (List Frame)) : (s.acceptSequence c d b).turn = s.turn := rfl
@[simp] theorem State.acceptSequence_draws (s : State) (c : Byte) (d : Word) (b : List (List Frame)) : (s.acceptSequence c d b).draws = s.draws := rfl

/-! ### afterMove -/

@[simp] theorem afterMove_st (t : State) : (afterMove t).st = t.st := rfl
@[simp] theorem afterMove_cmd (t : State) : (afterMove t).cmd = t.cmd := rfl
@[simp] theorem afterMove_wdata (t : State) : (afterMove t).wdata = t.wdata := rfl
@[simp] theorem afterMove_hdr (t : State) : (afterMove t).hdr = t.hdr := rfl
@[simp] theorem afterMove_hresp (t : State) : (afterMove t).hresp = t.hresp := rfl
@[simp] theorem afterMove_ack (t : State) : (afterMove t).ack = t.ack := rfl
@[simp] theorem afterMove_rdata (t : State) : (afterMove t).rdata = t.rdata := rfl
@[simp] theorem afterMove_rpar (t : State) : (afterMove t).rpar = t.rpar := rfl
@[simp] theorem afterMove_outcome (t : State) : (afterMove t).outcome = t.outcome := rfl
@[simp] theorem afterMove_seq (t : State) : (afterMove t).seq = t.seq := rfl
@[simp] theorem afterMove_seqIdx (t : State) : (afterMove t).seqIdx = t.seqIdx := rfl
@[simp] theorem afterMove_slots (t : State) : (afterMove t).slots = t.slots := rfl
@[simp] theorem afterMove_count (t : State) : (afterMove t).count = t.count := rfl
@[simp] theorem afterMove_bitOrder (t : State) : (afterMove t).bitOrder = t.bitOrder := rfl
@[simp] theorem afterMove_phase (t : State) : (afterMove t).phase = t.phase := rfl
@[simp] theorem afterMove_txq (t : State) : (afterMove t).txq = t.txq := rfl
@[simp] theorem afterMove_shifter (t : State) : (afterMove t).shifter = t.shifter := rfl
@[simp] theorem afterMove_rxq (t : State) : (afterMove t).rxq = t.rxq := rfl
@[simp] theorem afterMove_trace (t : State) : (afterMove t).trace = t.trace := rfl
@[simp] theorem afterMove_tornDown (t : State) : (afterMove t).tornDown = t.tornDown := rfl
@[simp] theorem afterMove_port (t : State) : (afterMove t).port = Config.hostDrives t.draws := rfl
@[simp] theorem afterMove_turn (t : State) : (afterMove t).turn = nextTurn t := rfl
@[simp] theorem afterMove_draws (t : State) : (afterMove t).draws = t.draws + 1 := rfl

/-! ### afterTick -/

@[simp] theorem afterTick_st (t : State) : (afterTick t).st = t.st := rfl
@[simp] theorem afterTick_cmd (t : State) : (afterTick t).cmd = t.cmd := rfl
@[simp] theorem afterTick_wdata (t : State) : (afterTick t).wdata = t.wdata := rfl
@[simp] theorem afterTick_hdr (t : State) : (afterTick t).hdr = t.hdr := rfl
@[simp] theorem afterTick_hresp (t : State) : (afterTick t).hresp = t.hresp := rfl
@[simp] theorem afterTick_ack (t : State) : (afterTick t).ack = t.ack := rfl
@[simp] theorem afterTick_rdata (t : State) : (afterTick t).rdata = t.rdata := rfl
@[simp] theorem afterTick_rpar (t : State) : (afterTick t).rpar = t.rpar := rfl
@[simp] theorem afterTick_outcome (t : State) : (afterTick t).outcome = t.outcome := rfl
@[simp] theorem afterTick_seq (t : State) : (afterTick t).seq = t.seq := rfl
@[simp] theorem afterTick_seqIdx (t : State) : (afterTick t).seqIdx = t.seqIdx := rfl
@[simp] theorem afterTick_slots (t : State) : (afterTick t).slots = t.slots := rfl
@[simp] theorem afterTick_count (t : State) : (afterTick t).count = t.count := rfl
@[simp] theorem afterTick_bitOrder (t : State) : (afterTick t).bitOrder = t.bitOrder := rfl
@[simp] theorem afterTick_phase (t : State) : (afterTick t).phase = t.phase := rfl
@[simp] theorem afterTick_txq (t : State) : (afterTick t).txq = t.txq := rfl
@[simp] theorem afterTick_shifter (t : State) : (afterTick t).shifter = t.shifter := rfl
@[simp] theorem afterTick_rxq (t : State) : (afterTick t).rxq = t.rxq := rfl
@[simp] theorem afterTick_trace (t : State) : (afterTick t).trace = t.trace := rfl
@[simp] theorem afterTick_tornDown (t : State) : (afterTick t).tornDown = t.tornDown := rfl
@[simp] theorem afterTick_port (t : State) : (afterTick t).port = t.port := rfl
@[simp] theorem afterTick_turn (t : State) : (afterTick t).turn = nextTurn t := rfl
@[simp] theorem afterTick_draws (t : State) : (afterTick t).draws = t.draws + 1 := rfl

/-! ### populate -/

@[simp] theorem State.populate_st (s : State) (fs : List Frame) : (s.populate fs).st = s.st := by
  unfold State.populate; split <;> rfl
@[simp] theorem State.populate_cmd (s : State) (fs : List Frame) : (s.populate fs).cmd = s.cmd := by
  unfold State.populate; split <;> rfl
@[simp] theorem State.populate_wdata (s : State) (fs : List Frame) : (s.populate fs).wdata = s.wdata := by
  unfold State.populate; split <;> rfl
@[simp] theorem State.populate_hdr (s : State) (fs : List Frame) : (s.populate fs).hdr = s.hdr := by
  unfold State.populate; split <;> rfl
@[simp] theorem State.populate_hresp (s : State) (fs : List Frame) : (s.populate fs).hresp = s.hresp := by
  unfold State.populate; split <;> rfl
@[simp] theorem State.populate_ack (s : State) (fs : List Frame) : (s.populate fs).ack = s.ack := by
  unfold State.populate; split <;> rfl
@[simp] theorem State.populate_rdata (s : State) (fs : List Frame) : (s.populate fs).rdata = s.rdata := by
  unfold State.populate; split <;> rfl
@[simp] theorem State.populate_rpar (s : State) (fs : List Frame) : (s.populate fs).rpar = s.rpar := by
  unfold State.populate; split <;> rfl
@[simp] theorem State.populate_outcome (s : State) (fs : List Frame) : (s.populate fs).outcome = s.outcome := by
  unfold State.populate; split <;> rfl
@[simp] theorem State.populate_seq (s : State) (fs : List Frame) : (s.populate fs).seq = s.seq := by
  unfold State.populate; split <;> rfl
@[simp] theorem State.populate_seqIdx (s : State) (fs : List Frame) : (s.populate fs).seqIdx = s.seqIdx := by
  unfold State.populate; split <;> rfl
@[simp] theorem State.populate_bitOrder (s : State) (fs : List Frame) : (s.populate fs).bitOrder = s.bitOrder := by
  unfold State.populate; split <;> rfl
@[simp] theorem State.populate_phase (s : State) (fs : List Frame) : (s.populate fs).phase = s.phase := by
  unfold State.populate; split <;> rfl
@[simp] theorem State.populate_txq (s : State) (fs : List Frame) : (s.populate fs).txq = s.txq := by
  unfold State.populate; split <;> rfl
@[simp] theorem State.populate_shifter (s : State) (fs : List Frame) : (s.populate fs).shifter = s.shifter := by
  unfold State.populate; split <;> rfl
@[simp] theorem State.populate_rxq (s : State) (fs : List Frame) : (s.populate fs).rxq = s.rxq := by
  unfold State.populate; split <;> rfl
@[simp] theorem State.populate_trace (s : State) (fs : List Frame) : (s.populate fs).trace = s.trace := by
  unfold State.populate; split <;> rfl
@[simp] theorem State.populate_tornDown (s : State) (fs : List Frame) : (s.populate fs).tornDown = s.tornDown := by
  unfold State.populate; split <;> rfl
@[simp] theorem State.populate_port (s : State) (fs : List Frame) : (s.populate fs).port = s.port := by
  unfold State.populate; split <;> rfl
@[simp] theorem State.populate_turn (s : State) (fs : List Frame) : (s.populate fs).turn = s.turn := by
  unfold State.populate; split <;> rfl
@[simp] theorem State.populate_draws (s : State) (fs : List Frame) : (s.populate fs).draws = s.draws := by
  unfold State.populate; split <;> rfl

theorem State.populate_slots (s : State) (fs : List Frame) (h : fs.length ≤ fifoDepth) :
    (s.populate fs).slots = populateSlots fs s.slots := by
  simp [State.populate, h]

theorem State.populate_count (s : State) (fs : List Frame) (h : fs.length ≤ fifoDepth) :
    (s.populate fs).count = fs.length := by
  simp [State.populate, h]

/-! ### what the ports show -/

theorem State.not_busy_iff (s : State) : s.busy = false ↔ s.txq = [] ∧ s.shifter = none := by
  cases h : s.txq <;> cases h' : s.shifter <;> simp [State.busy, h, h']

@[simp] theorem State.afterMove_busy (t : State) : (afterMove t).busy = t.busy := rfl

@[simp] theorem State.afterTick_busy (t : State) : (afterTick t).busy = t.busy := rfl

/-! ### reading `wdata`, and the latched command -/

/-- A command that uses `wdata` is a TRANSFER with RnW = 0, and no other is. -/
theorem usesWdata_iff (c : Byte) : usesWdata c = true ↔ isTransfer c = true ∧ fieldRnW c = false := by
  simp [usesWdata]

theorem State.readWdata_accept (s : State) (c : Byte) (d : Word) :
    (s.accept c d).readWdata = if usesWdata c then .ok d else .error (.invalidRegister .wdata) := rfl

/-- A read of `wdata` looks at `cmd` and `wdata` only. -/
theorem State.readWdata_congr {s t : State} (hc : t.cmd = s.cmd) (hd : t.wdata = s.wdata) : t.readWdata = s.readWdata := by
  simp [State.readWdata, hc, hd]

theorem State.readWdata_ok_iff (s : State) (d : Word) :
    s.readWdata = .ok d ↔ s.wdata = some d ∧ ∃ c, s.cmd = some c ∧ usesWdata c = true := by
  cases hc : s.cmd with
  | none => simp [State.readWdata, hc]
  | some c =>
    cases hd : s.wdata <;> cases hu : usesWdata c <;> simp [State.readWdata, hc, hd, hu, validOr]

theorem State.latched_iff (s : State) (c : Byte) (d : Word) :
    s.latched c d = true ↔ s.cmd = some c ∧ (usesWdata c = true → s.wdata = some d) := by
  cases hu : usesWdata c <;> simp [State.latched, hu]

theorem State.cmd_of_latched {s : State} {c : Byte} {d : Word} (h : s.latched c d = true) : s.cmd = some c :=
  ((s.latched_iff c d).1 h).1

/-- The data of the latched write is what a read of `wdata` gives. -/
theorem State.readWdata_of_latched {s : State} {c : Byte} {d : Word} (h : s.latched c d = true) (hu : usesWdata c = true) :
    s.readWdata = .ok d :=
  (s.readWdata_ok_iff d).2 ⟨((s.latched_iff c d).1 h).2 hu, c, State.cmd_of_latched h, hu⟩

/-- The data word the engine takes for the latched command makes that command the one latched. -/
theorem State.latched_of_requestData {s : State} {c : Byte} {d : Word} (hc : s.cmd = some c) (h : s.requestData c = .ok d) :
    s.latched c d = true := by
  rw [State.latched_iff]
  refine ⟨hc, fun hu => ?_⟩
  rw [State.requestData, if_pos hu, State.readWdata_ok_iff] at h
  exact h.1

theorem mapNext_eq_next {f : State → State} {o : Host.Outcome State Fault Refusal} {t : State}
    (h : mapNext f o = .next t) : ∃ u, o = .next u ∧ t = f u := by
  cases o with
  | next u => exact ⟨u, rfl, by simpa [mapNext] using h.symm⟩
  | fault r => simp [mapNext] at h
  | refused r => simp [mapNext] at h

end Sys2Proof.Machine
end

