-- ==== Sys2Proof/Laws/Transport.lean ====
section
/-!
SUPPORT. What the slot file, the push, the capture and one call of `exchange` can do (40_transport.md rules R65 to R73).
-/

namespace Sys2Proof.Machine

/-- The outgoing parts of a slot. -/
def Slot.out (sl : Slot) : Option Word × Option (BitVec 5) := (sl.tx, sl.len)

/-- What a frame puts into a slot. -/
def Frame.out (f : Frame) : Option Word × Option (BitVec 5) := (some f.word, some f.len)

/-- What a frame puts on the transmit queue (rule R70). -/
def Frame.pushed (f : Frame) : Frame := ⟨lowBits f.word f.len, f.len⟩

@[simp] theorem Frame.pushed_len (f : Frame) : f.pushed.len = f.len := rfl

@[simp] theorem populateSlots_length (fs : List Frame) (slots : List Slot) :
    (populateSlots fs slots).length = slots.length := by
  induction fs generalizing slots with
  | nil => cases slots <;> rfl
  | cons f fs ih => cases slots with
    | nil => rfl
    | cons sl rest => simp [populateSlots, ih]

theorem populateSlots_out (fs : List Frame) (slots : List Slot) (h : fs.length ≤ slots.length) :
    ((populateSlots fs slots).take fs.length).map Slot.out = fs.map Frame.out := by
  induction fs generalizing slots with
  | nil => simp
  | cons f fs ih => cases slots with
    | nil => simp at h
    | cons sl rest => simp [populateSlots, Slot.out, Frame.out] at h ⊢; simpa [Slot.out, Frame.out] using ih rest h

@[simp] theorem populateSlots_rx (fs : List Frame) (slots : List Slot) :
    (populateSlots fs slots).map Slot.rx = slots.map Slot.rx := by
  induction fs generalizing slots with
  | nil => cases slots <;> rfl
  | cons f fs ih => cases slots with
    | nil => rfl
    | cons sl rest => simp [populateSlots, ih]

@[simp] theorem invalidateRx_length (n : Nat) (slots : List Slot) : (invalidateRx n slots).length = slots.length := by
  induction n generalizing slots with
  | zero => cases slots <;> rfl
  | succ n ih => cases slots with
    | nil => rfl
    | cons sl rest => simp [invalidateRx, ih]

theorem invalidateRx_out (n : Nat) (slots : List Slot) :
    (invalidateRx n slots).map Slot.out = slots.map Slot.out := by
  induction n generalizing slots with
  | zero => cases slots <;> rfl
  | succ n ih => cases slots with
    | nil => rfl
    | cons sl rest => simp [invalidateRx, Slot.out] at ih ⊢; exact ih rest

/-- Slots filled from a batch push that batch's frames, cut to their lengths. -/
theorem slotFrames_eq (n : Nat) (slots : List Slot) (fs : List Frame) (hn : n = fs.length)
    (h : (slots.take n).map Slot.out = fs.map Frame.out) :
    slotFrames n slots = .ok (fs.map Frame.pushed) := by
  induction fs generalizing n slots with
  | nil => subst hn; rfl
  | cons f fs ih =>
    subst hn
    cases slots with
    | nil => simp at h
    | cons sl rest =>
      simp [Slot.out, Frame.out] at h
      obtain ⟨⟨htx, hlen⟩, h⟩ := h
      have := ih fs.length rest rfl (by simpa [Slot.out, Frame.out] using h)
      simp [slotFrames, htx, hlen, this, Except.map, Frame.pushed]

/-- The capture of a batch whose slots hold its lengths, from a queue with enough raw words. -/
theorem captureSlots_eq (n : Nat) (slots : List Slot) (fs : List Frame) (raws : List Word) (hn : n = fs.length)
    (h : (slots.take n).map Slot.out = fs.map Frame.out) (hr : n ≤ raws.length) :
    ∃ slots', captureSlots n slots raws =
        .ok (slots', raws.drop n, List.zipWith (fun f raw => captureShift raw f.len) fs raws) ∧
      slots'.length = slots.length := by
  induction fs generalizing n slots raws with
  | nil => subst hn; exact ⟨slots, by simp [captureSlots], rfl⟩
  | cons f fs ih =>
    subst hn
    cases slots with
    | nil => simp at h
    | cons sl rest =>
      cases raws with
      | nil => simp at hr
      | cons raw raws =>
        simp [Slot.out, Frame.out] at h
        obtain ⟨⟨htx, hlen⟩, h⟩ := h
        obtain ⟨slots', hc, hl⟩ := ih fs.length rest raws rfl (by simpa [Slot.out, Frame.out] using h) (by simpa using hr)
        exact ⟨{ sl with rx := some (captureShift raw f.len) } :: slots', by simp [captureSlots, hlen, hc], by simp [hl]⟩

/-- A capture leaves as many slots as there were. -/
theorem captureSlots_length {n : Nat} {slots slots' : List Slot} {raws left samples : List Word}
    (h : captureSlots n slots raws = .ok (slots', left, samples)) : slots'.length = slots.length := by
  induction n generalizing slots slots' raws left samples with
  | zero => simp [captureSlots] at h; simp [h.1]
  | succ n ih =>
    cases slots with
    | nil => simp [captureSlots] at h
    | cons sl rest =>
      cases raws with
      | nil => simp [captureSlots] at h
      | cons raw raws =>
        simp only [captureSlots] at h
        split at h
        · simp at h
        · split at h
          · simp at h
          · rename_i hc
            simp only [Except.ok.injEq, Prod.mk.injEq] at h
            obtain ⟨rfl, -, -⟩ := h
            simp [ih hc]

/-- The state that a call of `exchange` leaves, whichever way it ends with one. -/
def Exchanged.state? : Exchanged → Option State
  | .refused _ => none
  | .fault _ => none
  | .capacity t => some t
  | .pending t => some t
  | .done t _ => some t

/-- An exchange touches the slot file, its own phase, the queues and the trace, and nothing else (rule R75). -/
theorem exchange_frame {fs : List Frame} {s t : State} (h : (exchange fs s).state? = some t) :
    t = { s with slots := t.slots, count := t.count, phase := t.phase, txq := t.txq, rxq := t.rxq, trace := t.trace } := by
  have push : ∀ {u t : State}, (pushBatch u).state? = some t →
      t = { u with slots := t.slots, count := t.count, phase := t.phase, txq := t.txq, rxq := t.rxq, trace := t.trace } := by
    intro u t h
    unfold pushBatch at h
    split at h
    · simp [Exchanged.state?] at h; subst h; rfl
    · split at h <;> simp [Exchanged.state?] at h
      subst h; rfl
  unfold exchange at h
  split at h
  · split at h
    · simp [Exchanged.state?] at h
    · split at h
      · simp [Exchanged.state?] at h
      · split at h
        · simp [Exchanged.state?] at h; subst h; unfold State.populate; split <;> rfl
        · split at h
          · simp [Exchanged.state?] at h; subst h; unfold State.populate; split <;> rfl
          · rw [push h]; unfold State.populate; split <;> rfl
  · split at h
    · simp [Exchanged.state?] at h; subst h; rfl
    · exact push h
  · split at h
    · simp [Exchanged.state?] at h; subst h; rfl
    · unfold captureBatch at h
      split at h <;> simp [Exchanged.state?] at h
      subst h; rfl

/-- What an engine stage built on an exchange does when it answers a next state: it aborts on CAPACITY, holds, or goes on. -/
theorem onExchange_next {x : Exchanged} {k : State → List Word → Host.Outcome State Fault Refusal} {t : State}
    (h : onExchange x k = .next t) :
    (∃ u, x = .capacity u ∧ t = u.abort .transportCapacity) ∨ x = .pending t ∨ ∃ u xs, x = .done u xs ∧ k u xs = .next t := by
  cases x <;> simp_all [onExchange]

/-! ### The batch in a call of `exchange` -/

/-- At call time with good frames: CAPACITY, a wait, or the push. -/
theorem exchange_call (fs : List Frame) (s : State) (hp : s.phase = .call) (hl : s.bitOrder = .lsbFirst)
    (hf : ∀ f ∈ fs, frameLenOk f.len = true) :
    exchange fs s =
      if fs.length > fifoDepth - s.txLevel ∨ fs.length > fifoDepth - s.rxLevel then .capacity (s.populate fs)
      else if s.busy then .pending { s.populate fs with phase := .waitPush }
      else pushBatch (s.populate fs) := by
  have : fs.all (fun f => frameLenOk f.len) = true := by simpa using hf
  simp [exchange, hp, hl, this]

/-- The push of a batch that stands in the first slots. -/
theorem pushBatch_eq (s : State) (fs : List Frame) (hn : s.count = fs.length) (hne : fs ≠ [])
    (h : (s.slots.take s.count).map Slot.out = fs.map Frame.out) :
    pushBatch s = .pending { s with trace := s.trace ++ [.gap], txq := s.txq ++ fs.map Frame.pushed,
                                    slots := invalidateRx s.count s.slots, phase := .waitDone } := by
  have h0 : s.count ≠ 0 := by simpa [hn] using hne
  simp [pushBatch, h0, slotFrames_eq s.count s.slots fs hn h]

/-- The capture of a batch that stands in the first slots. -/
theorem captureBatch_eq (s : State) (fs : List Frame) (hn : s.count = fs.length)
    (h : (s.slots.take s.count).map Slot.out = fs.map Frame.out) (hr : s.count ≤ s.rxq.length) :
    ∃ slots', captureBatch s = .done { s with slots := slots', rxq := s.rxq.drop s.count, phase := .call }
        (List.zipWith (fun f raw => captureShift raw f.len) fs s.rxq) ∧ slots'.length = s.slots.length := by
  obtain ⟨slots', hc, hl⟩ := captureSlots_eq s.count s.slots fs s.rxq hn h hr
  exact ⟨slots', by simp [captureBatch, hc], hl⟩

end Sys2Proof.Machine
end

