-- ==== Sys2Proof/Laws/Engine.lean ====
section
/-!
SUPPORT. What each engine stage and each meaning can do when it answers a next state (42_engine.md rules R85 to R94, 43_line.md rule R103).
-/

namespace Sys2Proof.Machine

/-- `t` is `s` but for the slot file, the exchange's phase, the queues and the trace. -/
def OnlyTransport (s t : State) : Prop :=
  t = { s with slots := t.slots, count := t.count, phase := t.phase, txq := t.txq, rxq := t.rxq, trace := t.trace }

theorem exchange_only {fs : List Frame} {s t : State} (h : (exchange fs s).state? = some t) : OnlyTransport s t :=
  exchange_frame h

/-- `hresp` holds the sampled ACK, whatever stands at the discarded positions. -/
@[simp] theorem ackField_headerResponse (r : Bool) (s : Word) (free : BitVec 13) :
    ackField (headerResponse r s free) = s.extractLsb' 9 3 := by
  have mask : ∀ (r : Bool) (i : Nat), i < 3 → (discardedBits r).getLsbD (9 + i) = false := by decide
  apply BitVec.eq_of_getLsbD_eq
  intro i hi
  have h : 9 + i < 13 := by omega
  simp only [ackField, ackOffset, headerResponse, BitVec.getLsbD_extractLsb', BitVec.getLsbD_or, BitVec.getLsbD_and, BitVec.getLsbD_not,
    BitVec.getLsbD_setWidth, mask r i hi, hi, h, decide_true, Bool.true_and, Bool.not_false, Bool.and_true, Bool.and_false, Bool.or_false]

/-- The one-frame exchange of SEND_HEADER. -/
theorem sendHeader_next {r : Bool} {hdr : Byte} {s t : State} (h : sendHeader r hdr s = .next t) :
    (∃ u, exchange [headerFrame r hdr] { s with hdr := some hdr } = .capacity u ∧ t = u.abort .transportCapacity) ∨
    exchange [headerFrame r hdr] { s with hdr := some hdr } = .pending t ∨
    (∃ u x, exchange [headerFrame r hdr] { s with hdr := some hdr } = .done u [x] ∧
      t = { u with hresp := some (headerResponse r x (Config.hrespDiscarded u.draws)), st := .awaitAck }) := by
  rcases onExchange_next h with h | h | ⟨u, xs, hx, hk⟩
  · exact .inl h
  · exact .inr (.inl h)
  · split at hk
    · simp only [Host.Outcome.next.injEq] at hk; exact .inr (.inr ⟨u, _, hx, hk.symm⟩)
    · simp at hk

theorem awaitAck_next {r : Bool} {s t : State} (h : awaitAck r s = .next t) :
    ∃ hr, s.hresp = some hr ∧
      ((decodeAck (ackField hr) = .ok ∧
          t = { s with ack := some (ackField hr), st := if r then .sendReadData else .sendWriteData }) ∨
       ∃ e : AbortCode, e.next = .sendIdle ∧ decodeAck (ackField hr) ≠ .ok ∧ e.code = ackOutcome (ackField hr) ∧
          t = { s with ack := some (ackField hr), outcome := some e.code, st := .sendIdle }) := by
  unfold awaitAck at h
  cases hh : s.hresp with
  | none => simp [validOr, hh] at h
  | some hr =>
    refine ⟨hr, rfl, ?_⟩
    simp only [validOr, hh] at h
    split at h <;> rename_i hk <;> simp only [Host.Outcome.next.injEq] at h
    · exact .inl ⟨hk, h.symm⟩
    · exact .inr ⟨.wait, rfl, by simp [hk], by simp [ackOutcome, hk], h.symm⟩
    · exact .inr ⟨.fault, rfl, by simp [hk], by simp [ackOutcome, hk], h.symm⟩
    · exact .inr ⟨.unknownAck, rfl, by simp [hk], by simp [ackOutcome, hk], h.symm⟩

/-- AWAIT_ACK, the one reader of `hresp`, goes the same way whatever stands outside the ACK field (20_memory.md rule R46). -/
theorem awaitAck_discards (r : Bool) (s : State) {h h' : BitVec 13} (e : ackField h = ackField h') :
    awaitAck r { s with hresp := some h' } =
      mapNext (fun t => { t with hresp := some h' }) (awaitAck r { s with hresp := some h }) := by
  simp only [awaitAck, validOr, ← e]
  cases decodeAck (ackField h) <;> rfl

theorem sendReadData_next {s t : State} (h : sendReadData s = .next t) :
    (∃ u, exchange readFillFrames s = .capacity u ∧ t = u.abort .transportCapacity) ∨
    exchange readFillFrames s = .pending t ∨
    (∃ u s1 s2, exchange readFillFrames s = .done u [s1, s2] ∧
      t = { u with
        rdata := some (readWord s1 s2), rpar := some (readParity s2), st := .sendIdle,
        outcome := some (if parityOk (readWord s1 s2) (readParity s2) then okCode else AbortCode.parityMismatch.code) }) := by
  rcases onExchange_next h with h | h | ⟨u, xs, hx, hk⟩
  · exact .inl h
  · exact .inr (.inl h)
  · split at hk
    · split at hk <;> rename_i hp <;> simp only [Host.Outcome.next.injEq] at hk <;>
        exact .inr (.inr ⟨u, _, _, hx, by rw [← hk]; simp [hp, State.abort, AbortCode.next]⟩)
    · simp at hk

theorem sendWriteData_next {s t : State} (h : sendWriteData s = .next t) :
    ∃ d, s.readWdata = .ok d ∧
      ((∃ u, exchange (writeFrames d) s = .capacity u ∧ t = u.abort .transportCapacity) ∨
       exchange (writeFrames d) s = .pending t ∨
       (∃ u xs, exchange (writeFrames d) s = .done u xs ∧ t = { u with outcome := some okCode, st := .sendIdle })) := by
  unfold sendWriteData at h
  split at h
  · simp at h
  · rename_i d hd
    refine ⟨d, hd, ?_⟩
    rcases onExchange_next h with h | h | ⟨u, xs, hx, hk⟩
    · exact .inl h
    · exact .inr (.inl h)
    · simp only [Host.Outcome.next.injEq] at hk; exact .inr (.inr ⟨u, xs, hx, hk.symm⟩)

theorem sendIdle_next {s t : State} (h : sendIdle s = .next t) :
    (∃ u, exchange [idleFrame] s = .capacity u ∧ t = u.abort .transportCapacity) ∨
    exchange [idleFrame] s = .pending t ∨
    (∃ u xs o, exchange [idleFrame] s = .done u xs ∧ u.outcome = some o ∧
      t = { u with st := if o = okCode then .done else .faulted }) := by
  rcases onExchange_next h with h | h | ⟨u, xs, hx, hk⟩
  · exact .inl h
  · exact .inr (.inl h)
  · cases ho : u.outcome with
    | none => simp [validOr, ho] at hk
    | some o =>
      simp only [validOr, ho, Host.Outcome.next.injEq] at hk
      exact .inr (.inr ⟨u, xs, o, hx, ho, by rw [← hk, ← ho]⟩)

theorem sendSequence_next {s t : State} (h : sendSequence s = .next t) :
    ∃ batches k batch, s.seq = some batches ∧ s.seqIdx = some k ∧ batches[k]? = some batch ∧
      ((∃ u, exchange batch s = .capacity u ∧ t = u.abort .transportCapacity) ∨
       exchange batch s = .pending t ∨
       (∃ u xs, exchange batch s = .done u xs ∧
         ((k + 1 = batches.length ∧ t = { u with seqIdx := some (k + 1), outcome := some okCode, st := .done }) ∨
          (k + 1 ≠ batches.length ∧ t = { u with seqIdx := some (k + 1) })))) := by
  unfold sendSequence at h
  split at h
  · simp at h
  · simp at h
  · rename_i batches k hs hk
    split at h
    · simp at h
    · rename_i batch hb
      refine ⟨batches, k, batch, hs, hk, hb, ?_⟩
      rcases onExchange_next h with h | h | ⟨u, xs, hx, h⟩
      · exact .inl h
      · exact .inr (.inl h)
      · split at h <;> rename_i hl <;> simp only [Host.Outcome.next.injEq] at h
        · exact .inr (.inr ⟨u, xs, hx, .inl ⟨hl, h.symm⟩⟩)
        · exact .inr (.inr ⟨u, xs, hx, .inr ⟨hl, h.symm⟩⟩)

/-- A TRANSFER in progress does one of the five stages, or nothing. -/
theorem transferStage_next {ap r : Bool} {a : BitVec 2} {s t : State} (h : transferStage ap r a s = .next t) :
    (s.st = .sendHeader ∧ sendHeader r (buildHeader ap r a) s = .next t) ∨
    (s.st = .awaitAck ∧ awaitAck r s = .next t) ∨
    (s.st = .sendReadData ∧ r = true ∧ sendReadData s = .next t) ∨
    (s.st = .sendWriteData ∧ r = false ∧ sendWriteData s = .next t) ∨
    (s.st = .sendIdle ∧ sendIdle s = .next t) ∨
    (s.inProgress = false ∧ t = s) := by
  cases hs : s.st <;> simp [transferStage, hs, State.inProgress, State.cmdReady, State.rspValid] at h ⊢
  all_goals first
    | exact h.symm
    | exact h
    | (cases r <;> simp_all)

end Sys2Proof.Machine
end

