-- ==== Sys2Proof/Laws/Dispatch.lean ====
section
/-!
SUPPORT. How decoded words reach the shared meanings: the decoder's answers by kind of word, and exec's meanings by request.
-/

namespace Sys2Proof.Machine

theorem exec_transferInstr (ap r : Bool) (a : BitVec 2) (d : Word) (s : State) :
    exec (transferInstr ap r a d) s = runTransfer ap r a d s := by
  cases ap <;> cases r <;> rfl

theorem exec_headerInstr (ap r : Bool) (a : BitVec 2) (p : Bool) (s : State) :
    exec (headerInstr ap r a p) s = runHeader r (headerByte ap r a p) s := by
  cases ap <;> cases r <;> rfl

theorem transferByte_fields {c : Byte} (h : isTransfer c = true) :
    transferByte (fieldAPnDP c) (fieldRnW c) (fieldAddr c) = c := by
  revert c; decide

theorem isTransfer_transferByte (ap r : Bool) (a : BitVec 2) : isTransfer (transferByte ap r a) = true := by
  revert ap r a; decide

theorem fields_transferByte (ap r : Bool) (a : BitVec 2) :
    fieldAPnDP (transferByte ap r a) = ap ∧ fieldRnW (transferByte ap r a) = r ∧ fieldAddr (transferByte ap r a) = a := by
  revert ap r a; decide

theorem decodeCommand_transfer {c : Byte} (h : isTransfer c = true) (d : Word) :
    decodeCommand c d = .ok (transferInstr (fieldAPnDP c) (fieldRnW c) (fieldAddr c) d) := by
  simp [isTransfer] at h
  simp [decodeCommand, h]

theorem isLineControl_cases {c : Byte} (h : isLineControl c = true) :
    c = lineResetByte ∨ c = switchToSwdByte ∨ c = connectByte := by
  simpa [isLineControl, or_assoc] using h

/-- What a command word that decodes stands for. -/
theorem decodeCommand_ok {c : Byte} {d : Word} {i : Instr} (h : decodeCommand c d = .ok i) :
    (isTransfer c = true ∧ i = transferInstr (fieldAPnDP c) (fieldRnW c) (fieldAddr c) d) ∨
    (c = lineResetByte ∧ i = .lineReset d) ∨ (c = switchToSwdByte ∧ i = .switchToSwd d) ∨
    (c = connectByte ∧ i = .connect d) := by
  have h1 : ∀ c : Byte, cmdOp c = 1#3 → c.extractLsb' 0 5 = 0#5 → c = lineResetByte := by decide
  have h2 : ∀ c : Byte, cmdOp c = 2#3 → c.extractLsb' 0 5 = 0#5 → c = switchToSwdByte := by decide
  have h3 : ∀ c : Byte, cmdOp c = 3#3 → c.extractLsb' 0 5 = 0#5 → c = connectByte := by decide
  unfold decodeCommand at h
  split at h
  · rename_i hop
    split at h
    · simp at h
    · rename_i hb
      simp only [Except.ok.injEq] at h
      exact .inl ⟨by simpa [isTransfer, hop] using hb, h.symm⟩
  · split at h
    · rename_i hop
      split at h
      · rename_i hz; simp only [Except.ok.injEq] at h; exact .inr (.inl ⟨h1 c hop hz, h.symm⟩)
      · simp at h
    · split at h
      · rename_i hop
        split at h
        · rename_i hz; simp only [Except.ok.injEq] at h; exact .inr (.inr (.inl ⟨h2 c hop hz, h.symm⟩))
        · simp at h
      · split at h
        · rename_i hop
          split at h
          · rename_i hz; simp only [Except.ok.injEq] at h; exact .inr (.inr (.inr ⟨h3 c hop hz, h.symm⟩))
          · simp at h
        · simp at h

theorem decodeHeader_headerOfCommand (c : Byte) :
    decodeHeader (headerOfCommand c) =
      .ok (headerInstr (fieldAPnDP c) (fieldRnW c) (fieldAddr c)
        (headerParity (fieldAPnDP c) (fieldRnW c) (fieldAddr c))) := by
  revert c; decide

/-- A header that is due comes from a latched TRANSFER in SEND_HEADER. -/
theorem headerDue_some {s : State} {h : Byte} (hd : s.headerDue = some h) :
    s.st = .sendHeader ∧ ∃ c, s.cmd = some c ∧ isTransfer c = true ∧ h = headerOfCommand c := by
  unfold State.headerDue at hd
  split at hd
  · rename_i c hst hc
    split at hd
    · rename_i ht; simp only [Option.some.injEq] at hd; exact ⟨hst, c, hc, ht, hd.symm⟩
    · simp at hd
  · simp at hd

/-- A header row that decodes from the header due sends it. -/
theorem exec_dueHeader {s : State} {h : Byte} {i : Instr} (hd : s.headerDue = some h) (hi : decodeHeader h = .ok i) :
    ∃ c, s.cmd = some c ∧ isTransfer c = true ∧ exec i s = sendHeader (fieldRnW c) (headerOfCommand c) s := by
  obtain ⟨-, c, hc, ht, rfl⟩ := headerDue_some hd
  rw [decodeHeader_headerOfCommand] at hi
  simp only [Except.ok.injEq] at hi
  refine ⟨c, hc, ht, ?_⟩
  rw [← hi, exec_headerInstr]
  unfold runHeader
  rw [if_pos (by rw [hd]; rfl)]
  rfl

/-- A latched TRANSFER outside READY runs its stage. -/
theorem exec_latchedTransfer {s : State} {c : Byte} {d : Word} {i : Instr} (hst : s.st ≠ .ready) (ht : isTransfer c = true)
    (hi : decodeCommand c d = .ok i) (hl : s.latched c d = true) :
    exec i s = transferStage (fieldAPnDP c) (fieldRnW c) (fieldAddr c) s := by
  rw [decodeCommand_transfer ht] at hi
  simp only [Except.ok.injEq] at hi
  rw [← hi, exec_transferInstr]
  simp [runTransfer, hst, transferByte_fields ht, hl]

/-- A latched line-control command outside READY runs its stage. -/
theorem exec_latchedSequence {s : State} {c : Byte} {d : Word} {i : Instr} (hst : s.st ≠ .ready) (hl : isLineControl c = true)
    (hi : decodeCommand c d = .ok i) (hc : s.cmd = some c) : exec i s = sequenceStage s := by
  have hnt : ∀ c : Byte, isLineControl c = true → isTransfer c = false ∧ usesWdata c = false := by decide
  rcases decodeCommand_ok hi with ⟨h, -⟩ | ⟨rfl, rfl⟩ | ⟨rfl, rfl⟩ | ⟨rfl, rfl⟩
  · simp [hnt c hl] at h
  all_goals simp [exec, execLineReset, execSwitchToSwd, execConnect, runSequence, hst, State.latched, hc, hnt _ hl]

/-- In READY a command that decodes is accepted. -/
theorem exec_ready {s : State} {c : Byte} {d : Word} {i : Instr} (hst : s.st = .ready) (hi : decodeCommand c d = .ok i) :
    exec i s = .next (if isTransfer c then s.acceptTransfer c d else s.acceptSequence c d
      (if c = lineResetByte then lineResetSeq else if c = switchToSwdByte then switchSeq else connectSeq)) := by
  rcases decodeCommand_ok hi with ⟨h, rfl⟩ | ⟨rfl, rfl⟩ | ⟨rfl, rfl⟩ | ⟨rfl, rfl⟩
  · rw [exec_transferInstr]; simp [runTransfer, hst, h, transferByte_fields h]
  all_goals
    simp only [exec, execLineReset, execSwitchToSwd, execConnect, runSequence, hst, if_true]
    rfl

end Sys2Proof.Machine
end

