-- ==== Sys2Proof/Laws/Exchange.lean ====
section
/-!
SUPPORT. What one call of `exchange` does in a state whose transport and peripheral parts are in order: it never stops, and it ends in
CAPACITY, in a wait with the batch in the slot file, or with one sample for each frame.
-/

namespace Sys2Proof.Machine

/-- The part of the invariant that the transport and the peripheral keep. -/
structure TransportOk (s : State) : Prop where
  slots_four    : s.slots.length = fifoDepth
  count_le      : s.count ≤ fifoDepth
  txq_le        : s.txq.length ≤ fifoDepth
  rxq_le        : s.rxq.length ≤ fifoDepth
  txq_frames    : ∀ f ∈ s.txq, frameLenOk f.len = true
  shifter_frame : ∀ sh, s.shifter = some sh → frameLenOk sh.len = true ∧ sh.k < sh.len.toNat
  lsb           : s.bitOrder = .lsbFirst

/-- The batch `b` is under way in `s`. -/
structure Underway (b : List Frame) (s : State) : Prop where
  count : s.count = b.length
  out   : (s.slots.take s.count).map Slot.out = b.map Frame.out
  held  : s.phase = .waitDone → s.count ≤ s.wordsHeld

/-- A batch the engine may exchange. -/
structure GoodBatch (b : List Frame) : Prop where
  nonempty : b ≠ []
  fits     : b.length ≤ fifoDepth
  frames   : ∀ f ∈ b, frameLenOk f.len = true

theorem wordsHeld_of_not_busy {s : State} (h : s.busy = false) : s.wordsHeld = s.rxq.length := by
  obtain ⟨hq, hs⟩ := (s.not_busy_iff).1 h
  simp [State.wordsHeld, hq, hs]

theorem TransportOk.populate {s : State} (h : TransportOk s) {b : List Frame} (hb : b.length ≤ fifoDepth) :
    TransportOk (s.populate b) := by
  constructor
  · rw [State.populate_slots s b hb]; simpa using h.slots_four
  · rw [State.populate_count s b hb]; exact hb
  all_goals simp only [State.populate_txq, State.populate_rxq, State.populate_shifter, State.populate_bitOrder]
  exacts [h.txq_le, h.rxq_le, h.txq_frames, h.shifter_frame, h.lsb]

theorem populate_out {s : State} (h : TransportOk s) {b : List Frame} (hb : b.length ≤ fifoDepth) :
    (((s.populate b).slots).take (s.populate b).count).map Slot.out = b.map Frame.out := by
  rw [State.populate_slots s b hb, State.populate_count s b hb]
  exact populateSlots_out b s.slots (by rw [h.slots_four]; exact hb)

/-- How one call of `exchange` ends, from a state in order. -/
def ExchangeSpec (b : List Frame) (s : State) : Exchanged → Prop
  | .refused _ => False
  | .fault _ => False
  | .capacity t => s.phase = .call ∧ t = s.populate b ∧
      (b.length > fifoDepth - s.txLevel ∨ b.length > fifoDepth - s.rxLevel)
  | .pending t => TransportOk t ∧ t.phase ≠ .call ∧ Underway b t ∧
      (t.phase = .waitPush → t.busy = true) ∧
      (s.busy = false → t.txq = b.map Frame.pushed ∧ t.trace = s.trace ++ [.gap] ∧ t.phase = .waitDone ∧
        t.rxq = s.rxq) ∧
      (s.busy = true → t.txq = s.txq ∧ t.rxq = s.rxq ∧ t.trace = s.trace ∧ (s.phase ≠ .call → t = s))
  | .done t xs => TransportOk t ∧ t.phase = .call ∧ s.phase = .waitDone ∧ s.busy = false ∧
      t.rxq = s.rxq.drop b.length ∧ t.txq = [] ∧ t.trace = s.trace ∧ b.length ≤ s.rxq.length ∧
      xs = List.zipWith (fun f raw => captureShift raw f.len) b s.rxq

theorem pushBatch_spec {b : List Frame} {s u : State} (hb : GoodBatch b) (hu : TransportOk u) (hc : u.count = b.length)
    (ho : (u.slots.take u.count).map Slot.out = b.map Frame.out) (hbusy : u.busy = false) (hs : s.busy = false)
    (hr : u.rxq = s.rxq) (ht : u.trace = s.trace) : ExchangeSpec b s (pushBatch u) := by
  rw [pushBatch_eq u b hc hb.nonempty ho]
  obtain ⟨hq, hsh⟩ := (u.not_busy_iff).1 hbusy
  refine ⟨⟨by simpa using hu.slots_four, hu.count_le, by simp [hq, hb.fits], hu.rxq_le, ?_, hu.shifter_frame, hu.lsb⟩,
    by simp, ⟨hc, ?_, ?_⟩, by simp, ?_, by simp [hs]⟩
  · intro f hf
    simp only [hq, List.nil_append, List.mem_map] at hf
    obtain ⟨g, hg, rfl⟩ := hf
    exact hb.frames g hg
  · simpa [← List.map_take, invalidateRx_out] using (by rw [List.map_take, invalidateRx_out, ← List.map_take]; exact ho :
      ((invalidateRx u.count u.slots).take u.count).map Slot.out = b.map Frame.out)
  · intro _; simp [State.wordsHeld, hq, hc]; omega
  · intro _; simp [hq, ht, hr]

theorem exchange_spec {b : List Frame} {s : State} (hb : GoodBatch b) (hs : TransportOk s)
    (hx : s.phase = .call ∨ Underway b s) : ExchangeSpec b s (exchange b s) := by
  by_cases hp : s.phase = .call
  · rw [exchange_call b s hp hs.lsb hb.frames]
    split
    · rename_i hcap; exact ⟨hp, rfl, hcap⟩
    · split
      · rename_i hbusy
        have hpop := hs.populate hb.fits
        refine ⟨⟨hpop.slots_four, hpop.count_le, hpop.txq_le, hpop.rxq_le, hpop.txq_frames, hpop.shifter_frame, hpop.lsb⟩,
          by simp, ⟨State.populate_count s b hb.fits, populate_out hs hb.fits, by simp⟩, ?_, by simp [hbusy], ?_⟩
        · intro _; simpa [State.busy] using hbusy
        · intro _; simp [hp]
      · rename_i hbusy
        simp only [Bool.not_eq_true] at hbusy
        exact pushBatch_spec hb (hs.populate hb.fits) (State.populate_count s b hb.fits) (populate_out hs hb.fits)
          (by simpa [State.busy] using hbusy) hbusy (by simp) (by simp)
  · have hu := hx.resolve_left hp
    unfold exchange
    split
    · contradiction
    · rename_i hph
      split
      · rename_i hbusy
        exact ⟨hs, hp, hu, fun _ => hbusy, by simp [hbusy], fun _ => ⟨rfl, rfl, rfl, fun _ => rfl⟩⟩
      · rename_i hbusy
        simp only [Bool.not_eq_true] at hbusy
        exact pushBatch_spec hb hs hu.count hu.out hbusy hbusy rfl rfl
    · rename_i hph
      split
      · rename_i hbusy
        exact ⟨hs, hp, hu, by simp [hph], by simp [hbusy], fun _ => ⟨rfl, rfl, rfl, fun _ => rfl⟩⟩
      · rename_i hbusy
        simp only [Bool.not_eq_true] at hbusy
        have hr : s.count ≤ s.rxq.length := by simpa [wordsHeld_of_not_busy hbusy] using hu.held hph
        obtain ⟨slots', hc, hl⟩ := captureBatch_eq s b hu.count hu.out hr
        rw [hc]
        refine ⟨⟨by simp [hl, hs.slots_four], hs.count_le, hs.txq_le, ?_, hs.txq_frames, hs.shifter_frame, hs.lsb⟩, rfl, hph,
          hbusy, by rw [hu.count], ((s.not_busy_iff).1 hbusy).1, rfl, by rw [← hu.count]; exact hr, rfl⟩
        have := hs.rxq_le
        simp; omega

end Sys2Proof.Machine
end

