-- ==== Sys2Proof/Laws/Labels.lean ====
section
/-!
SUPPORT. The frames that the driver labels name are the frames that the engine exchanges (30_encoding.md rules R55, R56 and R60).
-/

namespace Sys2Proof.Machine

theorem headerKind_frame (r : Bool) (hdr : Byte) (d : Word) : (headerKind r).frame hdr d = headerFrame r hdr := by
  cases r <;> rfl

theorem dataKinds_frames (hdr : Byte) (d : Word) :
    (dataKinds true).map (FrameKind.frame hdr d) = readFillFrames ∧ (dataKinds false).map (FrameKind.frame hdr d) = writeFrames d :=
  ⟨rfl, rfl⟩

/-- A frame's length is its name's, whatever it transmits. -/
theorem FrameKind.frame_len (k : FrameKind) (hdr : Byte) (d : Word) : (k.frame hdr d).len.toNat = k.bits := by
  cases k <;> rfl

theorem sequenceKinds_frames {c : Byte} (h : isLineControl c = true) (hdr : Byte) (d : Word) :
    (sequenceKinds c).map (List.map (FrameKind.frame hdr d)) = sequenceOf c := by
  have : c = lineResetByte ∨ c = switchToSwdByte ∨ c = connectByte := by simpa [isLineControl, or_assoc] using h
  rcases this with rfl | rfl | rfl <;> rfl

/-- In every state of the invariant the batch due, by name, transmits the batch that the engine exchanges. -/
theorem State.dueBatch_eq_kinds {s : State} {c : Byte} {d : Word} (h : StageOk s) (hc : s.cmd = some c) (hd : s.wdata = some d) :
    s.dueBatch = s.dueKinds.map (List.map (FrameKind.frame (headerOfCommand c) d)) := by
  unfold StageOk at h
  unfold State.dueBatch State.dueKinds
  split at h <;> rename_i hst <;> simp only [hst]
  case h_2 => simp [hc, headerKind_frame]
  case h_4 => simp [(dataKinds_frames _ _).1]
  case h_5 =>
    obtain ⟨c', _, hc', ht, hr, -⟩ := h
    rw [hc] at hc'; cases hc'
    have hw : s.readWdata = .ok d := (s.readWdata_ok_iff d).2 ⟨hd, c, hc, by simp [usesWdata, ht, hr]⟩
    simp [hw, Except.toOption, (dataKinds_frames _ _).2]
  case h_6 => rfl
  case h_7 =>
    obtain ⟨c', k, hc', hl, -, hs, hk, -⟩ := h
    rw [hc] at hc'; cases hc'
    simp [hs, hk, hc, ← sequenceKinds_frames hl (headerOfCommand c) d]
  all_goals rfl

end Sys2Proof.Machine
end

