-- ==== Sys2Proof/Laws/PerInstr.lean ====
section
/-!
SUPPORT. One fact for each instruction: its first byte carries the fixed bits of its row of spec/opcode_table.json, whatever its operands,
and a command hands its `wdata` over unchanged.
-/

namespace Sys2Proof.Laws.RowPattern

/-- The row's mask and match, copied from the table. -/
def row : Instr → Byte × Byte
  | .dpr _ _ => (0xe7, 0x04)
  | .dpw _ _ => (0xe7, 0x00)
  | .apr _ _ => (0xe7, 0x06)
  | .apw _ _ => (0xe7, 0x02)
  | .lineReset _ => (0xff, 0x20)
  | .switchToSwd _ => (0xff, 0x40)
  | .connect _ => (0xff, 0x60)
  | .hdrDpRead _ _ => (0xc7, 0x85)
  | .hdrDpWrite _ _ => (0xc7, 0x81)
  | .hdrApRead _ _ => (0xc7, 0x87)
  | .hdrApWrite _ _ => (0xc7, 0x83)

/-- The first byte of an instruction's words. -/
def firstByte : Words → Byte
  | .command c _ => c
  | .header h => h

/-- The encoded byte agrees with the row on the row's fixed bits. -/
def Statement (i : Instr) : Prop := firstByte (encode i) &&& (row i).1 = (row i).2

theorem commandBits : ∀ (ap r : Bool) (a : BitVec 2),
    Machine.transferByte ap r a &&& 0xe7#8 = (Machine.bitByte ap <<< 1) ||| (Machine.bitByte r <<< 2) := by decide

theorem headerBits : ∀ (ap r : Bool) (a : BitVec 2) (p : Bool),
    Machine.headerByte ap r a p &&& 0xc7#8 = 0x81#8 ||| (Machine.bitByte ap <<< 1) ||| (Machine.bitByte r <<< 2) := by decide

theorem dpr (a : BitVec 2) (d : Word) : Statement (.dpr a d) := (commandBits false true a).trans (by decide : _ = 0x04#8)
theorem dpw (a : BitVec 2) (d : Word) : Statement (.dpw a d) := (commandBits false false a).trans (by decide : _ = 0x00#8)
theorem apr (a : BitVec 2) (d : Word) : Statement (.apr a d) := (commandBits true true a).trans (by decide : _ = 0x06#8)
theorem apw (a : BitVec 2) (d : Word) : Statement (.apw a d) := (commandBits true false a).trans (by decide : _ = 0x02#8)
theorem lineReset (d : Word) : Statement (.lineReset d) :=
  (by decide : Machine.lineResetByte &&& 0xff#8 = 0x20#8)
theorem switchToSwd (d : Word) : Statement (.switchToSwd d) :=
  (by decide : Machine.switchToSwdByte &&& 0xff#8 = 0x40#8)
theorem connect (d : Word) : Statement (.connect d) :=
  (by decide : Machine.connectByte &&& 0xff#8 = 0x60#8)
theorem hdrDpRead (a : BitVec 2) (p : Bool) : Statement (.hdrDpRead a p) := (headerBits false true a p).trans (by decide : _ = 0x85#8)
theorem hdrDpWrite (a : BitVec 2) (p : Bool) : Statement (.hdrDpWrite a p) := (headerBits false false a p).trans (by decide : _ = 0x81#8)
theorem hdrApRead (a : BitVec 2) (p : Bool) : Statement (.hdrApRead a p) := (headerBits true true a p).trans (by decide : _ = 0x87#8)
theorem hdrApWrite (a : BitVec 2) (p : Bool) : Statement (.hdrApWrite a p) := (headerBits true false a p).trans (by decide : _ = 0x83#8)

end Sys2Proof.Laws.RowPattern
end

