-- ==== Sys2Proof/Laws/Peripheral.lean ====
section
/-!
SUPPORT. What one step of the peripheral can do (40_transport.md rule R71).
-/

namespace Sys2Proof.Machine

/-- The bit the target answers for the word in the shifter. -/
def Shifter.sample (sh : Shifter) (s : State) : Bool := Config.targetBit s.draws s.trace (sh.word.getLsbD sh.k)

/-- The sampled bits after this cycle. -/
def Shifter.gotNext (sh : Shifter) (s : State) : Word := withSample sh.got sh.k (sh.sample s)

/-- The state after this cycle, but for the shifter and the receive queue. -/
def Shifter.clocked (sh : Shifter) (s : State) : State :=
  { s with trace := s.trace ++ [.cycle (sh.word.getLsbD sh.k) (sh.sample s)], draws := s.draws + 1 }

/-- All that a step of the peripheral can do when it answers a next state: nothing on an idle peripheral, load a word, shift a
bit, or shift the last bit and hand the raw word over. -/
theorem tick_next {s t : State} (h : tick s = .next t) :
    (s.shifter = none ∧ s.txq = [] ∧ t = s) ∨
    (∃ f rest, s.shifter = none ∧ s.txq = f :: rest ∧ frameLenOk f.len = true ∧
      t = { s with txq := rest, shifter := some ⟨f.word, f.len, 0, 0⟩ }) ∨
    (∃ sh, s.shifter = some sh ∧ frameLenOk sh.len = true ∧ sh.k + 1 < sh.len.toNat ∧
      t = { sh.clocked s with shifter := some ⟨sh.word, sh.len, sh.k + 1, sh.gotNext s⟩ }) ∨
    (∃ sh, s.shifter = some sh ∧ frameLenOk sh.len = true ∧ sh.k + 1 = sh.len.toNat ∧ s.rxq.length < fifoDepth ∧
      t = { sh.clocked s with
        shifter := none, rxq := s.rxq ++ [rawWord sh.len (sh.gotNext s) (Config.rawPad s.draws)] }) := by
  unfold tick at h
  split at h
  · rename_i sh hs
    split at h
    · rename_i hok
      simp only [Bool.and_eq_true, decide_eq_true_eq] at hok
      simp only [shiftBit] at h
      split at h
      · rename_i hk
        simp only [Host.Outcome.next.injEq] at h
        exact .inr (.inr (.inl ⟨sh, hs, hok.1, hk, h.symm⟩))
      · split at h
        · rename_i hk hr
          simp only [Host.Outcome.next.injEq] at h
          exact .inr (.inr (.inr ⟨sh, hs, hok.1, by omega, hr, h.symm⟩))
        · simp at h
    · simp at h
  · rename_i hs
    split at h
    · rename_i hq
      simp only [Host.Outcome.next.injEq] at h
      exact .inl ⟨hs, hq, h.symm⟩
    · rename_i f rest hq
      split at h
      · rename_i hok
        simp only [Host.Outcome.next.injEq] at h
        exact .inr (.inl ⟨f, rest, hs, hq, hok, h.symm⟩)
      · simp at h

/-- A peripheral that holds only good frames moves, or loses a word to a full receive queue. -/
theorem tick_moves (s : State) (hq : ∀ f ∈ s.txq, frameLenOk f.len = true)
    (hsh : ∀ sh, s.shifter = some sh → frameLenOk sh.len = true ∧ sh.k < sh.len.toNat) :
    (∃ t, tick s = .next t) ∨ (tick s = .fault .rxOverflow ∧ fifoDepth ≤ s.rxq.length ∧ s.shifter ≠ none) := by
  unfold tick
  split
  · rename_i sh hs
    obtain ⟨hok, hk⟩ := hsh sh hs
    simp only [hok, hk, decide_true, Bool.and_self, if_true, shiftBit]
    split
    · exact .inl ⟨_, rfl⟩
    · split
      · exact .inl ⟨_, rfl⟩
      · rename_i hr; exact .inr ⟨rfl, by omega, by simp [hs]⟩
  · split
    · exact .inl ⟨_, rfl⟩
    · rename_i f rest hq'
      simp [hq f (by simp [hq'])]

end Sys2Proof.Machine
end

