-- ==== Sys2Proof/Tests/Slice0.lean ====
section
/-!
SUPPORT. Tests. Every expected value is a worked vector of spec/95_test_vectors.md (its id in the comment) or is read off the rule named.
The second half shows, for each statement with hypotheses, a state and operands that meet them.
-/

namespace Sys2Proof.Tests

open Sys2Proof.Machine

/-- What `f` reads in the next state, if there is one. -/
def seen {α : Type} (o : Host.Outcome State Fault Refusal) (f : State → α) : Option α :=
  match o with
  | .next t => some (f t)
  | .fault _ => none
  | .refused _ => none

/-- The fault, if there is one. -/
def faultOf (o : Host.Outcome State Fault Refusal) : Option Fault :=
  match o with
  | .next _ => none
  | .fault r => some r
  | .refused _ => none

/-- The refusal, if there is one. -/
def refusalOf (o : Host.Outcome State Fault Refusal) : Option Refusal :=
  match o with
  | .next _ => none
  | .fault _ => none
  | .refused r => some r

/-- A state in stage `st` of the command (c, d), no exchange under way. -/
def inStage (st : EngineState) (c : Byte) (d : Word) : State :=
  { State.reset with st := st, cmd := some c, wdata := some d }

/-- The state in which the batch has been shifted out and its raw words wait for the capture. -/
def shifted (b : List Frame) (raws : List Word) (s : State) : State :=
  { s with slots := populateSlots b s.slots, count := b.length, rxq := raws, phase := .waitDone }

/-! ## Well-formedness -/

theorem test_wf_commands : WellFormed (.dpr 3 7) = true ∧ WellFormed (.connect 0) = true := by decide
/-- H5, H1, H13, H9 with the parity bit wrong. -/
theorem test_wf_refuses_dp_read : WellFormed (.hdrDpRead 0 false) = false := by decide
theorem test_wf_refuses_dp_write : WellFormed (.hdrDpWrite 0 true) = false := by decide
theorem test_wf_refuses_ap_read : WellFormed (.hdrApRead 0 true) = false := by decide
theorem test_wf_refuses_ap_write : WellFormed (.hdrApWrite 0 false) = false := by decide

/-! ## Decoding: words written out from 30_encoding.md R50, R51, R54 and R61 -/

theorem test_decode_dpr : decode (.command 0b00010100 5) = .ok (.dpr 2 5) := by decide
theorem test_decode_dpw : decode (.command 0b00011000 5) = .ok (.dpw 3 5) := by decide
theorem test_decode_apr : decode (.command 0b00001110 5) = .ok (.apr 1 5) := by decide
theorem test_decode_apw : decode (.command 0b00011010 5) = .ok (.apw 3 5) := by decide
theorem test_decode_lineReset : decode (.command 0b00100000 5) = .ok (.lineReset 5) := by decide
theorem test_decode_switchToSwd : decode (.command 0b01000000 5) = .ok (.switchToSwd 5) := by decide
theorem test_decode_connect : decode (.command 0b01100000 5) = .ok (.connect 5) := by decide
/-- H6, H3, H15, H10. -/
theorem test_decode_hdrDpRead : decode (.header 0b10001101) = .ok (.hdrDpRead 1 false) := by decide
theorem test_decode_hdrDpWrite : decode (.header 0b10110001) = .ok (.hdrDpWrite 2 true) := by decide
theorem test_decode_hdrApRead : decode (.header 0b10110111) = .ok (.hdrApRead 2 true) := by decide
theorem test_decode_hdrApWrite : decode (.header 0b10001011) = .ok (.hdrApWrite 1 false) := by decide
/-- L4 to L8. -/
theorem test_decode_reserved :
    decode (.command 0x80 0) = .error .reservedOp ∧ decode (.command 0xE0 0) = .error .reservedOp ∧
    decode (.command 0x05 0) = .error .reservedBit ∧ decode (.command 0x21 0) = .error .lineControlField ∧
    decode (.command 0x78 0) = .error .lineControlField := by decide
/-- The four ways a byte is no header (R54). -/
theorem test_decode_no_header :
    decode (.header 0xA4) = .error .headerStart ∧ decode (.header 0xE5) = .error .headerStop ∧
    decode (.header 0x25) = .error .headerPark ∧ decode (.header 0x85) = .error .headerBadParity := by decide
/-- The table's numbering: a command's `wdata` stands above its byte, and a header is one byte. -/
theorem test_tableWord :
    decodeTableWord 8 0x04 = some (.dpr 0 0) ∧ decodeTableWord 40 0xAB00003510 = some (.dpw 2 0xAB000035) ∧
    decodeTableWord 8 0xA5 = some (.hdrDpRead 0 true) ∧ decodeTableWord 8 0x80 = none := by decide

/-! ## Codec -/

/-- H1 to H16. -/
theorem test_headers :
    ([(false, false), (false, true), (true, false), (true, true)].flatMap fun q =>
      [0, 1, 2, 3].map fun a => buildHeader q.1 q.2 a) =
    [0x81, 0xA9, 0xB1, 0x99, 0xA5, 0x8D, 0x95, 0xBD, 0xA3, 0x8B, 0x93, 0xBB, 0x87, 0xAF, 0xB7, 0x9F] := by decide

/-- EP1 to EP13. -/
theorem test_evenParity :
    ([(0, 0), (0xFFFFFFFF, 0), (1, 1), (3, 1), (3, 2), (0xFFFFFFFF, 32), (0xFFFFFFFF, 31), (0x7FFFFFFF, 32), (0x80000000, 31),
      (0x80000000, 32), (0xAB000035, 32), (0xAB000035, 8), (0x12345678, 32)] : List (Word × Nat)).map
        (fun q => (evenParity q.1 q.2).toOption) =
    [true, true, false, false, true, true, false, false, true, false, false, true, false].map some := by decide

/-- EP14. -/
theorem test_evenParity_refused (w : Word) : evenParity w 33 = .error .parityWidth := rfl

/-- PB1 to PB13. -/
theorem test_writeFrames :
    ([0, 1, 0xFFFFFFFF, 0x80000000, 0x8000, 0x10000, 0xFFFF, 0xFFFF0000, 0xAB000035, 0x12345678, 0x50000000, 0x1E, 0xF0] :
      List Word).map writeFrames =
    [[⟨0, 16⟩, ⟨0, 17⟩], [⟨1, 16⟩, ⟨0x10000, 17⟩], [⟨0xFFFF, 16⟩, ⟨0xFFFF, 17⟩], [⟨0, 16⟩, ⟨0x18000, 17⟩],
     [⟨0x8000, 16⟩, ⟨0x10000, 17⟩], [⟨0, 16⟩, ⟨0x10001, 17⟩], [⟨0xFFFF, 16⟩, ⟨0, 17⟩], [⟨0, 16⟩, ⟨0xFFFF, 17⟩],
     [⟨0x35, 16⟩, ⟨0x1AB00, 17⟩], [⟨0x5678, 16⟩, ⟨0x11234, 17⟩], [⟨0, 16⟩, ⟨0x5000, 17⟩], [⟨0x1E, 16⟩, ⟨0, 17⟩],
     [⟨0xF0, 16⟩, ⟨0, 17⟩]] := by decide

/-- PK1 to PK6. -/
theorem test_parityOk :
    ([(0, false), (0, true), (0x2BA01477, false), (0x2BA01477, true), (0x80000000, true), (0x24770011, false)] :
      List (Word × Bool)).map (fun q => parityOk q.1 q.2) = [true, false, true, false, true, true] := by decide

/-- V-ACK, from `hresp` to the kind. -/
theorem test_ack :
    ([0x000, 0x200, 0x400, 0x600, 0x800, 0xA00, 0xC00, 0xE00, 0x1E00] : List (BitVec 13)).map (fun h => decodeAck (ackField h)) =
    [.unknown, .ok, .wait, .unknown, .fault, .unknown, .unknown, .unknown, .unknown] := by decide

/-! ## Transport -/

/-- T1 to T8. -/
theorem test_captureShift :
    ([(0x200ABCDE, 12), (0x40000000, 12), (0x9007FFFF, 13), (0x1477FFFF, 16), (0x15D07FFF, 17), (0xFFFFFFFF, 24), (0x5AFFFFFF, 8),
      (0xFFFFFFFF, 1)] : List (Word × BitVec 5)).map (fun q => captureShift q.1 q.2) =
    [0x200, 0x400, 0x1200, 0x1477, 0x02BA0, 0xFFFFFF, 0x5A, 0x1] := by decide

/-- The raw layout (R71) of T5, with its low bits drawn as ones. -/
theorem test_rawWord : rawWord 17 0x02BA0 0xFFFFFFFF = 0x15D07FFF := by decide

/-- A state with words left in the queues, for the capacity vectors. -/
def leftOver (tx rx : Nat) : State :=
  { State.reset with txq := List.replicate tx idleFrame, rxq := List.replicate rx 0 }

/-- Whether the call is answered CAPACITY. -/
def isCapacity (x : Exchanged) : Bool :=
  match x with
  | .capacity _ => true
  | .refused _ => false
  | .fault _ => false
  | .pending _ => false
  | .done _ _ => false

/-- K1 to K7. -/
theorem test_capacity :
    [(0, 0, 4), (1, 0, 4), (1, 0, 3), (0, 2, 3), (0, 2, 2), (0, 0, 5), (4, 4, 0)].map
      (fun q => isCapacity (exchange (List.replicate q.2.2 idleFrame) (leftOver q.1 q.2.1))) =
    [false, true, false, true, false, true, false] := by decide

/-- K7: an empty batch ends in an empty result with no trace entry once the peripheral is idle. -/
theorem test_emptyBatch : exchange [] (leftOver 0 4) = .done (leftOver 0 4) [] := by decide

/-- T9 to T11. -/
theorem test_illFormedBatch :
    exchange [⟨0, 0⟩] State.reset = .refused .frameLength ∧ exchange [⟨0, 25⟩] State.reset = .refused .frameLength ∧
    exchange [idleFrame] { State.reset with bitOrder := .msbFirst } = .refused .msbFirst := by decide

/-- R72: too few raw words. -/
theorem test_captureShort : exchange [idleFrame] (shifted [idleFrame] [] State.reset) = .fault .captureShort := by decide

/-- R70: the bits at and above the length are not transmitted. -/
theorem test_pushCutsTheWord :
    seen (onExchange (exchange [⟨0xFFFF, 8⟩] State.reset) (fun t _ => .next t)) (·.txq) = some [⟨0xFF, 8⟩] := by decide

/-- R71: the first bit shifted out is bit 0 of the word. -/
theorem test_shiftsLsbFirst :
    seen (tick { State.reset with shifter := some ⟨0xFE, 8, 0, 0⟩ })
      (fun t => t.trace.map fun e => match e with
        | .cycle o _ => some o
        | .gap => none) = some [some false] := by decide

/-! ## Acceptance and reserved words -/

theorem test_accept_dpr : seen (exec (.dpr 1 0) State.reset) (fun t => (t.st, t.cmd)) = some (.sendHeader, some 0x0C) := by decide
theorem test_accept_dpw :
    seen (exec (.dpw 2 0xAB000035) State.reset) (fun t => (t.st, t.cmd, t.wdata)) =
      some (.sendHeader, some 0x10, some 0xAB000035) := by decide
theorem test_accept_apr : seen (exec (.apr 3 0) State.reset) (fun t => (t.st, t.cmd)) = some (.sendHeader, some 0x1E) := by decide
theorem test_accept_apw : seen (exec (.apw 3 0) State.reset) (fun t => (t.st, t.cmd)) = some (.sendHeader, some 0x1A) := by decide
/-- L1 to L3: the batches. -/
theorem test_accept_lineReset :
    seen (exec (.lineReset 0) State.reset) (fun t => (t.st, t.seq)) =
      some (.sendSequence, some [[⟨0xFFFFFF, 24⟩, ⟨0xFFFFFF, 24⟩, ⟨0xFF, 8⟩, ⟨0, 8⟩]]) := by decide
theorem test_accept_switchToSwd :
    seen (exec (.switchToSwd 0) State.reset) (fun t => (t.st, t.seq)) = some (.sendSequence, some [[⟨0xE79E, 16⟩]]) := by decide
theorem test_accept_connect :
    seen (exec (.connect 0) State.reset) (fun t => (t.st, t.seq.map fun b => b.map List.length)) =
      some (.sendSequence, some [4, 1, 4, 4, 1, 4]) := by decide

/-- L4, L6 and L7, through the step: BAD_COMMAND at once, with an empty trace. -/
theorem test_badCommand :
    [0x80, 0x05, 0x21].map (fun w => seen (step (State.reset.withFetchWord 8 w)) fun t => (t.st, t.outcome, t.trace)) =
    List.replicate 3 (some (.faulted, some 6, [])) := by decide

/-- 42_engine.md R85: acceptance makes the last results invalid. -/
theorem test_acceptInvalidates :
    seen (exec (.dpr 0 0) { State.reset with ack := some 1, rdata := some 9, rpar := some true, outcome := some 0 })
      (fun t => (t.ack, t.rdata, t.rpar, t.outcome)) = some (none, none, none, none) := by decide

/-! ## Header rows: the frame each sends (E1, E5, E10, E11) -/

theorem test_hdrDpRead_sends :
    seen (exec (.hdrDpRead 0 true) (inStage .sendHeader 0x04 0)) (fun t => (t.hdr, t.txq)) =
      some (some 0xA5, [⟨0x0A5, 12⟩]) := by decide
theorem test_hdrDpWrite_sends :
    seen (exec (.hdrDpWrite 2 true) (inStage .sendHeader 0x10 0xAB000035)) (fun t => (t.hdr, t.txq)) =
      some (some 0xB1, [⟨0x0B1, 13⟩]) := by decide
theorem test_hdrApRead_sends :
    seen (exec (.hdrApRead 3 false) (inStage .sendHeader 0x1E 0)) (fun t => (t.hdr, t.txq)) =
      some (some 0x9F, [⟨0x09F, 12⟩]) := by decide
theorem test_hdrApWrite_sends :
    seen (exec (.hdrApWrite 3 true) (inStage .sendHeader 0x1A 0)) (fun t => (t.hdr, t.txq)) =
      some (some 0xBB, [⟨0x0BB, 13⟩]) := by decide
/-- A header that is not the one due is not sent (R54). -/
theorem test_header_notDue :
    seen (exec (.hdrDpRead 1 false) (inStage .sendHeader 0x04 0)) (fun t => (t.hdr, t.txq)) = some (none, []) := by decide
/-- E9's header word 0x1E00, captured from 13 bits: its ACK is 0b111. -/
theorem test_header_capture :
    seen (exec (.hdrDpWrite 0 false) (shifted [⟨0x81, 13⟩] [0xF0000000] (inStage .sendHeader 0x00 5)))
      (fun t => (t.st, t.hresp.map ackField)) = some (.awaitAck, some 0b111) := by
  have captured : ∀ n, some (EngineState.awaitAck, some (ackField (headerResponse false 0x1E00 (Config.hrespDiscarded n)))) =
      some (.awaitAck, some 0b111) := fun n => by rw [ackField_headerResponse]; decide
  exact captured 0
/-- The positions of R56 that are no T bit are the discarded ones; bit 12 of a read's 12-bit frame is none (R87: `s[12] = 0`). -/
theorem test_discardedBits :
    (∀ i : Fin 12, (discardedBits true).getLsbD i = decide (driver .hdrR false i ≠ .target)) ∧
    (discardedBits true).getLsbD 12 = false ∧
    (∀ i : Fin 13, (discardedBits false).getLsbD i = decide (driver .hdrW false i ≠ .target)) := by decide

/-! ## Stages (E1 to E18) -/

/-- E1, E3, E4, E8. -/
theorem test_awaitAck_read :
    ([0x200, 0x400, 0x800, 0xE00] : List (BitVec 13)).map (fun h =>
      seen (exec (.dpr 0 0) { inStage .awaitAck 0x04 0 with hresp := some h }) fun t => (t.st, t.ack, t.outcome)) =
    [some (.sendReadData, some 1, none), some (.sendIdle, some 2, some 1), some (.sendIdle, some 4, some 2),
     some (.sendIdle, some 7, some 3)] := by decide

/-- E11, E12, E9's ACK. -/
theorem test_awaitAck_write :
    ([0x200, 0x400, 0x1E00] : List (BitVec 13)).map (fun h =>
      seen (exec (.apw 3 0x12345678) { inStage .awaitAck 0x1A 0x12345678 with hresp := some h }) fun t => (t.st, t.outcome)) =
    [some (.sendWriteData, none), some (.sendIdle, some 1), some (.sendIdle, some 3)] := by decide

/-- E1 and E2: the same data with the two parity bits (raw words as in T4 and T5). -/
theorem test_readData_dpr :
    ([0x15D00000, 0x95D00000] : List Word).map (fun r2 =>
      seen (exec (.dpr 0 0) (shifted readFillFrames [0x14770000, r2] (inStage .sendReadData 0x04 0)))
        fun t => (t.rdata, t.rpar, t.outcome)) =
    [some (some 0x2BA01477, some false, some 0), some (some 0x2BA01477, some true, some 4)] := by decide

/-- E10. -/
theorem test_readData_apr :
    seen (exec (.apr 3 0) (shifted readFillFrames [0x00110000, 0x123B8000] (inStage .sendReadData 0x1E 0)))
      (fun t => (t.rdata, t.rpar, t.outcome)) = some (some 0x24770011, some false, some 0) := by decide

/-- E5: the data frames of a write, and its end, whatever is sampled. -/
theorem test_writeData_dpw :
    seen (exec (.dpw 2 0xAB000035) (inStage .sendWriteData 0x10 0xAB000035)) (·.txq) = some [⟨0x35, 16⟩, ⟨0x1AB00, 17⟩] ∧
    seen (exec (.dpw 2 0xAB000035) (shifted (writeFrames 0xAB000035) [7, 9] (inStage .sendWriteData 0x10 0xAB000035)))
      (fun t => (t.st, t.outcome, t.rdata)) = some (.sendIdle, some 0, none) := by decide

/-- E11. -/
theorem test_writeData_apw :
    seen (exec (.apw 3 0x12345678) (inStage .sendWriteData 0x1A 0x12345678)) (·.txq) =
      some [⟨0x5678, 16⟩, ⟨0x11234, 17⟩] := by decide

/-- SEND_IDLE: DONE for OK, FAULTED for WAIT (E1, E3); E18: a capacity error there replaces WAIT. -/
theorem test_idle :
    seen (exec (.dpr 0 0) (shifted [idleFrame] [0] { inStage .sendIdle 0x04 0 with outcome := some 0 })) (·.st) = some .done ∧
    seen (exec (.dpr 0 0) (shifted [idleFrame] [0] { inStage .sendIdle 0x04 0 with outcome := some 1 })) (·.st) =
      some .faulted ∧
    seen (exec (.dpr 0 0) { inStage .sendIdle 0x04 0 with ack := some 2, outcome := some 1, rxq := [0, 0, 0, 0] })
      (fun t => (t.st, t.outcome, t.ack, t.trace)) = some (.faulted, some 5, some 2, []) := by decide

/-- L9; and the last batch of a line reset ends it (L1). -/
theorem test_sequence_lineReset :
    seen (exec (.lineReset 0) { inStage .sendSequence 0x20 0 with seq := some lineResetSeq, seqIdx := some 0, rxq := [0] })
      (fun t => (t.st, t.outcome)) = some (.faulted, some 5) ∧
    seen (exec (.lineReset 0) (shifted lineResetBatch [1, 2, 3, 4]
      { inStage .sendSequence 0x20 0 with seq := some lineResetSeq, seqIdx := some 0 }))
      (fun t => (t.st, t.outcome)) = some (.done, some 0) := by decide

/-- CONNECT goes on after its fifth batch (L3). -/
theorem test_sequence_connect :
    seen (exec (.connect 0) (shifted switchBatch [1]
      { inStage .sendSequence 0x60 0 with seq := some connectSeq, seqIdx := some 4 }))
      (fun t => (t.st, t.seqIdx, t.outcome)) = some (.sendSequence, some 5, none) := by decide

/-- R92 to R94: a state no run reaches stops by name. -/
theorem test_impossible : faultOf (exec (.dpw 0 0) (inStage .sendReadData 0x00 0)) = some .impossibleTransition := by decide

/-! ## The step -/

/-- One word of each kind of row runs as the first instruction after reset. -/
theorem test_step_runs :
    seen (step (State.reset.withFetchWord 8 0x04)) (·.st) = some .sendHeader ∧
    seen (step (State.reset.withFetchWord 8 0x20)) (·.st) = some .sendSequence ∧
    seen (step (State.reset.withFetchWord 8 0xA3)) (fun t => (t.hdr, t.txq)) = some (some 0xA3, [⟨0xA3, 13⟩]) := by decide

/-- Nothing is offered at reset, so the machine waits in READY (10_state.md R20). -/
theorem test_step_reset : seen (step State.reset) (fun t => (t.st, t.cmd)) = some (.ready, none) := by decide

/-- 10_state.md R21, R19: a read of `rdata` after a write faults; `ack` reads. -/
theorem test_response_read :
    faultOf (step { inStage .done 0x00 5 with ack := some 1, outcome := some 0, port := { PortIn.idle with read := some .rdata } }) =
      some (.invalidRegister .rdata) ∧
    seen (step { inStage .done 0x00 5 with ack := some 1, outcome := some 0, port := { PortIn.idle with read := some .ack } })
      (·.st) = some .done := by decide

/-- 70_reset_and_hazards.md R124. -/
theorem test_teardown :
    seen (step { State.reset with port := { PortIn.idle with teardown := true } }) (·.tornDown) = some true ∧
    refusalOf (step { State.reset with tornDown := true }) = some .afterTeardown ∧
    refusalOf (step { inStage .awaitAck 0x04 0 with port := { PortIn.idle with teardown := true } }) =
      some .teardownInProgress := by decide

/-! ## The host's side -/

/-- 30_encoding.md R62 and R63. -/
theorem test_assemble :
    (assemble (.dpw 0x8 0xF0)).map encode = some (.command 0x10 0xF0) ∧ assemble (.apr 0x5) = none ∧
    (apRead2 3).map encode = [.command 0x1E 0, .command 0x1E 0] := by decide

/-- S5: the select word. -/
theorem test_selectWord : selectWord 0xAB 0x3 0x5 = 0xAB000035 := by decide

/-- 10_state.md R12: `wdata` reads after a DPW, and faults after a DPR and a LINE_RESET. -/
theorem test_readWdata :
    (inStage .sendWriteData 0x10 5).readWdata = .ok 5 ∧
    (inStage .sendReadData 0x14 5).readWdata = .error (.invalidRegister .wdata) ∧
    (inStage .sendSequence 0x20 5).readWdata = .error (.invalidRegister .wdata) ∧
    State.reset.readWdata = .error (.invalidRegister .wdata) := by decide

/-! ## Driver labels (30_encoding.md R56) -/

/-- The label column of section 2.6, frame by frame; an IDLE after write data or after a write's header is all H. -/
theorem test_labels :
    (let h := Driver.host
     let z := Driver.turnaround
     let t := Driver.target
     let hs := fun n => List.replicate n h
     let ts := fun n => List.replicate n t
     wireLabels none (transferKinds true .ok) = [hs 8 ++ [z] ++ ts 3, ts 16, ts 17, z :: hs 7] ∧
     wireLabels none (transferKinds true .wait) = [hs 8 ++ [z] ++ ts 3, z :: hs 7] ∧
     wireLabels none (transferKinds false .ok) = [hs 8 ++ [z] ++ ts 3 ++ [z], hs 16, hs 17, hs 8] ∧
     wireLabels none (transferKinds false .fault) = [hs 8 ++ [z] ++ ts 3 ++ [z], hs 8]) := by decide

/-- The label of the next cycle: wire cycles 8, 9 and 45 of section 2.6, and bit 0 of the IDLE after a write. -/
theorem test_cycleDriver :
    ({ inStage .sendHeader 0x04 0 with phase := .waitDone, shifter := some ⟨0xA5, 12, 8, 0⟩ } : State).cycleDriver =
      some .turnaround ∧
    ({ inStage .sendHeader 0x04 0 with phase := .waitDone, shifter := some ⟨0xA5, 12, 9, 0⟩ } : State).cycleDriver = some .target ∧
    ({ inStage .sendIdle 0x04 0 with ack := some 1, phase := .waitDone, shifter := some ⟨0, 8, 0, 0⟩ } : State).cycleDriver =
      some .turnaround ∧
    ({ inStage .sendIdle 0x10 0 with ack := some 1, phase := .waitDone, shifter := some ⟨0, 8, 0, 0⟩ } : State).cycleDriver =
      some .host := by decide

/-! ## Sessions (70_reset_and_hazards.md R126 to R135) -/

/-- A response of command `c` with outcome `o` and ACK `a`. -/
def resp (c : Byte) (o : BitVec 3) (a : Option (BitVec 3)) : Response :=
  { cmd := c, wdata := none, outcome := o, ack := a, rdata := none, rpar := none }
/-- A response of the AP read 0xC (P2) with ACK OK and this data, parity 0. -/
def apRead (w : Word) : Response := { resp 0x1E 0 (some 1) with rdata := some w, rpar := some false }
/-- The AP read answered WAIT, and the sticky clear of P5 carried out. -/
def apWait : Response := resp 0x1E 1 (some 2)
def clear : Response := { resp 0x00 0 (some 1) with wdata := some 0x1E }

/-- S8 (Scenario B, program P3): WAIT, WAIT, OK takes three invocations. E18's end, a capacity error behind a WAIT ACK, stops the loop, and so
does one before the header. -/
theorem test_retry :
    (let wait := resp 0x1A 1 (some 2)
     let ok := resp 0x1A 0 (some 1)
     retryResponses [wait, wait, ok, wait] = [wait, wait, ok] ∧
     retryResponses [wait, resp 0x1A 5 (some 2), ok] = [wait, resp 0x1A 5 (some 2)] ∧
     retryResponses [resp 0x1A 5 none, ok] = [resp 0x1A 5 none]) := by decide

/-- R126: P1's order passes; a later CONNECT or lone line reset asks for `DPR 0x0` again; CONNECT comes first. -/
theorem test_connectsFirst :
    connectsFirst [0x60, 0x04, 0x1E] = true ∧ connectsFirst [0x60, 0x20, 0x04, 0x0C] = true ∧
    connectsFirst [0x60, 0x04, 0x20, 0x04, 0x1E] = true ∧ connectsFirst [0x60, 0x04, 0x20, 0x1E] = false ∧
    connectsFirst [0x60, 0x04, 0x60, 0x1E] = false ∧ connectsFirst [0x60, 0x0C] = false ∧ connectsFirst [0x20, 0x60, 0x04] = false ∧
    connectsFirst [0x04] = false := by decide

/-- R128 to R132; P4's reissue is one DPR, an APR's is the whole pair. -/
theorem test_dutyAfter :
    dutyAfter (resp 0x0C 4 (some 1)) = some (.discard [.dpr 1 0]) ∧
    dutyAfter (resp 0x1E 4 (some 1)) = some (.discard [.apr 3 0, .apr 3 0]) ∧
    dutyAfter (resp 0x1A 1 (some 2)) = some .mayRetry ∧ dutyAfter (resp 0x1A 3 (some 7)) = some .reconnect ∧
    dutyAfter (resp 0x1A 5 none) = some .retryAfterDrain ∧ dutyAfter (resp 0x1A 5 (some 1)) = some .resync := by decide

/-- R130 and D20, R132: a CONNECT or a LINE_RESET that ran to its end comes before the next TRANSFER; SWITCH_TO_SWD or one that was cut short
is not enough. After a capacity error before the header nothing is owed. -/
theorem test_resyncsFirst :
    (let unknown := resp 0x0C 3 (some 7)
     let dpr := resp 0x04 0 (some 1)
     resyncsFirst [unknown, resp 0x60 0 none, dpr] = true ∧ resyncsFirst [unknown, resp 0x20 0 none, dpr] = true ∧
     resyncsFirst [unknown, dpr] = false ∧ resyncsFirst [unknown, resp 0x40 0 none, dpr] = false ∧
     resyncsFirst [unknown, resp 0x60 5 none, dpr] = false ∧ resyncsFirst [resp 0x1A 5 (some 1), dpr] = false ∧
     resyncsFirst [resp 0x1A 5 (some 1), resp 0x20 0 none, dpr] = true ∧ resyncsFirst [resp 0x1A 5 none, dpr] = true) := by decide

/-- R127 on P2's answers: the second read's data; a WAIT repeated; a DP read between. An AP write or another AP read between breaks the
pair, and data that fails its parity check is no value (R131). -/
theorem test_apPair :
    apPairValue 3 [apRead 0, apRead 0x24770011] = some 0x24770011 ∧
    apPairValue 3 [apWait, apRead 0, apWait, apRead 0x24770011] = some 0x24770011 ∧
    apPairValue 3 [apWait, resp 0x0C 0 (some 1), apRead 0, apRead 0x24770011] = some 0x24770011 ∧
    apPairValue 3 [apRead 0, resp 0x0C 0 (some 1), apRead 0x24770011] = some 0x24770011 ∧
    apPairValue 3 [apRead 0, resp 0x1A 1 (some 2), apRead 0x24770011] = none ∧
    apPairValue 3 [apRead 0, resp 0x0E 0 (some 1), apRead 0x24770011] = none ∧
    apPairValue 3 [apRead 0, apRead 1] = none := by decide

/-- R47, R135: the first read is a draw, and so is one after an AP write with any ACK or after a CONNECT. -/
theorem test_posted :
    (viewOf []).posted = none ∧ (viewOf [apRead 0]).posted = some (0, 3) ∧ (viewOf [apRead 0, apRead 1]).posted = some (1, 3) ∧
    (viewOf [apRead 0, resp 0x0C 0 (some 1)]).posted = some (0, 3) ∧
    (viewOf [apRead 0, resp 0x1A 0 (some 1)]).posted = none ∧ (viewOf [apRead 0, resp 0x1A 1 (some 2)]).posted = none ∧
    (viewOf [apRead 0, resp 0x60 0 none]).posted = none := by decide

/-- R48 on P5: after the FAULT no premise applies until the clear. Then the next AP read delivers the last AP read's value (R47), one from before
the FAULT or one in between. -/
theorem test_sticky :
    (viewOf [resp 0x14 2 (some 4)]).premised = false ∧ (viewOf [resp 0x14 2 (some 4), apRead 0]).premised = false ∧
    (viewOf [apRead 0, resp 0x14 2 (some 4), apRead 0]).delivers = none ∧
    (viewOf [apRead 0, resp 0x14 2 (some 4), clear]).delivers = some (0, 3) ∧
    (viewOf [apRead 0, resp 0x14 2 (some 4), apRead 0, clear]).delivers = some (2, 3) := by decide

/-- I7: a capacity error behind a header lifts the premise until a line reset, which cuts no posted read; a CONNECT does (R135). -/
theorem test_outOfStep :
    (viewOf [apRead 0, resp 0x0C 5 (some 1)]).delivers = none ∧
    (viewOf [apRead 0, resp 0x0C 5 (some 1), resp 0x20 0 none]).delivers = some (0, 3) ∧
    (viewOf [apRead 0, resp 0x0C 5 (some 1), resp 0x60 0 none]).delivers = none ∧
    (viewOf [apRead 0, resp 0x0C 5 (some 1), resp 0x60 0 none]).premised = true := by decide

/-- Responses come out of a run where a command ends, once each. -/
theorem test_session :
    session [{ inStage .sendIdle 0x0C 9 with ack := some 2, outcome := some 1 },
      { inStage .faulted 0x0C 9 with ack := some 2, outcome := some 1 },
      { inStage .faulted 0x0C 9 with ack := some 2, outcome := some 1 }] = [resp 0x0C 1 (some 2)] := by decide

/-! ## Witnesses: a state and operands that meet each statement's hypotheses -/

theorem witness_DecodeOfEncodeIsTheInstruction :
    WellFormed (.hdrDpRead 3 true) = true ∧ WellFormed (.hdrApWrite 2 false) = true ∧ WellFormed (.apw 3 0xFFFFFFFF) = true := by
  decide
theorem witness_DecodedWordsAreAnEncoding :
    decode (.command 0x1E 3) = .ok (.apr 3 3) ∧ decode (.header 0xBD) = .ok (.hdrDpRead 3 true) := by decide
theorem witness_EvenParityCountsTheLowBits : (0 : Nat) ≤ 32 ∧ (32 : Nat) ≤ 32 ∧ (32 : Nat) < 33 := by decide
theorem witness_ReadWordIsTheTwoHalves :
    ((0 : Nat) < 16 ∧ (15 : Nat) < 16) ∧ ((16 : Nat) ≤ 16 ∧ (16 : Nat) < 32) ∧ ((16 : Nat) ≤ 31 ∧ (31 : Nat) < 32) := by decide
theorem witness_WriteThenReadFramesRoundTrip : writeFrames 0xAB000035 = [⟨0x35, 16⟩, ⟨0x1AB00, 17⟩] := by decide
/-- Two header words that differ in every bit the target does not drive. -/
theorem witness_AckReadsOnlyTargetBits :
    (∀ i : Fin 13, driver .hdrR false i = .target → (0x1200#32).getLsbD i = (0x13FF#32).getLsbD i) ∧
    (∀ i : Fin 13, driver .hdrW false i = .target → (0x0200#32).getLsbD i = (0x13FF#32).getLsbD i) := by decide
theorem witness_AssemblerWritesTheCommandBytes : 0xC ∈ [0x0, 0x4, 0x8, 0xC] ∧ 0xD ∉ [0x0, 0x4, 0x8, 0xC] := by decide
theorem witness_CaptureReturnsTheSampledBits : frameLenOk 1 = true ∧ frameLenOk 24 = true := by decide
theorem witness_CapacityErrorChangesNothing :
    State.reset.phase = .call ∧ State.reset.bitOrder = .lsbFirst ∧
    (∀ f ∈ [idleFrame, ⟨1, 1⟩, ⟨0, 24⟩], 1 ≤ f.len.toNat ∧ f.len.toNat ≤ 24) ∧
    [idleFrame, ⟨1, 1⟩, ⟨0, 24⟩].length > 4 - (leftOver 2 0).txq.length ∧
    [idleFrame, ⟨1, 1⟩, ⟨0, 24⟩].length > 4 - (leftOver 0 2).rxq.length := by decide
theorem witness_IllFormedExchangeIsRefused :
    State.reset.phase = .call ∧ State.reset.bitOrder = .lsbFirst ∧
    ({ State.reset with bitOrder := .msbFirst } : State).bitOrder = .msbFirst ∧
    (∃ f ∈ [(⟨0, 0⟩ : Frame)], f.len.toNat = 0 ∨ 24 < f.len.toNat) ∧
    (∃ f ∈ [idleFrame, ⟨0, 25⟩], f.len.toNat = 0 ∨ 24 < f.len.toNat) := by decide
/-- A batch of two for the transport's witnesses. -/
def pair : List Frame := [idleFrame, ⟨1, 24⟩]
/-- One state for each clause: the call on an idle peripheral, on a busy one, the wait, the push after it, and the empty batch twice. -/
theorem witness_CallPushesTheBatchInOrder :
    let filled := { State.reset with slots := populateSlots pair State.reset.slots, count := 2, phase := .waitPush }
    (∀ s ∈ [leftOver 0 2, leftOver 2 2, leftOver 0 4, filled], s.bitOrder = .lsbFirst ∧ s.slots.length = 4) ∧
    (∀ f ∈ pair, 1 ≤ f.len.toNat ∧ f.len.toNat ≤ 24) ∧
    ((leftOver 0 2).phase = .call ∧ (leftOver 0 2).busy = false ∧ pair ≠ [] ∧ pair.length + (leftOver 0 2).rxq.length ≤ 4) ∧
    ((leftOver 2 2).phase = .call ∧ (leftOver 2 2).busy = true ∧ pair.length ≤ 4 - (leftOver 2 2).txq.length ∧
      pair.length ≤ 4 - (leftOver 2 2).rxq.length) ∧
    (({ filled with txq := [idleFrame] } : State).phase = .waitPush ∧ ({ filled with txq := [idleFrame] } : State).busy = true) ∧
    (filled.phase = .waitPush ∧ filled.busy = false ∧ BatchInSlots pair filled) ∧
    ((leftOver 0 4).busy = false ∧ (leftOver 0 4).phase = .call) ∧
    (({ leftOver 0 4 with phase := .waitPush } : State).busy = false ∧ ({ leftOver 0 4 with phase := .waitPush } : State).count = 0) := by
  decide
theorem witness_CaptureFillsTheSlotsInOrder :
    let s := shifted readFillFrames [1] State.reset
    let u := shifted readFillFrames [1, 2, 3] State.reset
    (s.phase = .waitDone ∧ s.busy = false ∧ s.count ≤ s.slots.length ∧ (∀ sl ∈ s.slots.take s.count, sl.len ≠ none) ∧
      s.rxq.length < s.count) ∧
    (u.phase = .waitDone ∧ u.busy = false ∧ u.count ≤ u.slots.length ∧ (∀ sl ∈ u.slots.take u.count, sl.len ≠ none) ∧
      u.count ≤ u.rxq.length) := by decide
theorem witness_PeripheralShiftsAWordOut :
    let s := { leftOver 0 3 with txq := [⟨1, 1⟩, ⟨0, 24⟩] }
    s.shifter = none ∧ s.txq = ⟨1, 1⟩ :: [⟨0, 24⟩] ∧ frameLenOk 1 = true ∧ s.rxq.length < 4 := by decide

/-- A peripheral about to shift the last bit of a word, and what it then leaves. -/
def shifting : State := { State.reset with shifter := some ⟨0x80, 8, 7, 0⟩ }
theorem witness_tick : ∃ t, tick shifting = .next t := ⟨_, rfl⟩
theorem witness_SampledBitIsTheTargetsDraw : ∃ sh t, shifting.shifter = some sh ∧ tick shifting = .next t := ⟨_, _, rfl, rfl⟩
theorem witness_PeripheralTouchesNoRegister : ∃ t, tick shifting = .next t := witness_tick

theorem witness_Accepted : State.reset.st = .ready := by decide
theorem witness_ReservedWordEndsInBadCommand :
    let s := { State.reset with port := { PortIn.idle with cmdValid := true, cmd := 0x21 } }
    s.tornDown = false ∧ s.peripheralMoves = false ∧ readFault s = none ∧ s.port.teardown = false ∧ s.st = .ready ∧
    s.port.cmdValid = true ∧ reservedCommand s.port.cmd = true := by decide
theorem witness_ResponseIsHeldUntilTaken :
    let s := inStage .done 0x20 0
    let u := { inStage .faulted 0x21 0 with port := { PortIn.idle with rspTake := true } }
    let v := { inStage .done 0x20 0 with
      outcome := some 0, port := { PortIn.idle with rspTake := true, read := some .outcome } }
    (s.tornDown = false ∧ s.peripheralMoves = false ∧ readFault s = none ∧ s.port.teardown = false ∧ s.st = .done) ∧
    (u.tornDown = false ∧ u.peripheralMoves = false ∧ readFault u = none ∧ u.port.teardown = false ∧ u.st = .faulted ∧
      u.port.rspTake = true) ∧
    (v.tornDown = false ∧ v.peripheralMoves = false ∧ readFault v = none ∧ v.port.teardown = false ∧ v.st = .done ∧
      v.port.rspTake = true ∧ v.port.read = some .outcome) := by decide
theorem witness_OffersOutsideReadyHaveNoEffect :
    (inStage .awaitAck 0x04 0).st ≠ .ready ∧ (inStage .awaitAck 0x04 0).peripheralMoves = false := by decide
theorem witness_ResponsePortReadsOrFaults : (inStage .done 0x20 0).st = .done ∧ (inStage .faulted 0x20 0).st = .faulted := by decide

/-- A state in SEND_HEADER with the header `c` asks for due and an idle peripheral that may hold received words. -/
def due (c : Byte) : State := { inStage .sendHeader c 0 with rxq := [0, 0, 0] }
theorem witness_HeaderRowsSendTheirByte :
    ((due 0x0C).phase = .call ∧ (due 0x0C).bitOrder = .lsbFirst ∧ (due 0x0C).slots.length = 4 ∧ (due 0x0C).txq = [] ∧
      (due 0x0C).shifter = none ∧ (due 0x0C).rxq.length ≤ 3) ∧
    (due 0x0C).headerDue = some (buildHeader false true 1) ∧ (due 0x18).headerDue = some (buildHeader false false 3) ∧
    (due 0x06).headerDue = some (buildHeader true true 0) ∧ (due 0x12).headerDue = some (buildHeader true false 2) := by decide
theorem witness_HeaderRowsTakeTheResponse :
    let s := shifted [⟨0xA5, 12⟩] [0x20000000] (inStage .sendHeader 0x04 0)
    WellFormed (.hdrDpRead 0 true) = true ∧ encode (.hdrDpRead 0 true) = .header 0xA5 ∧ s.headerDue = some 0xA5 ∧
    s.phase = .waitDone ∧ s.busy = false ∧ s.count = 1 ∧
    s.slots = ⟨some 0xA5, some 12, none⟩ :: [.invalid, .invalid, .invalid] ∧ s.rxq = 0x20000000 :: [] := by decide
theorem witness_TransferSendsItsHeaderRow :
    let s := inStage .sendHeader 0x1A 9
    s.st = .sendHeader ∧ encode (.apw 3 9) = .command 0x1A 9 ∧ isTransfer 0x1A = true ∧ s.latched 0x1A 9 = true ∧
    WellFormed (.hdrApWrite 3 true) = true ∧ encode (.hdrApWrite 3 true) = .header 0xBB ∧
    (0xBB#8).extractLsb' 1 4 = (0x1A#8).extractLsb' 1 4 := by decide
/-- A read's data word does not matter: the command with any data is the one latched. -/
theorem witness_AwaitAckGoesByTheKind :
    let s := { inStage .awaitAck 0x04 7 with hresp := some 0x200 }
    s.st = .awaitAck ∧ encode (.dpr 0 8) = .command 0x04 8 ∧ isTransfer 0x04 = true ∧ s.latched 0x04 8 = true ∧
    s.hresp = some 0x200 := by decide
theorem witness_ReadDataIsAssembledAndChecked :
    let s := shifted readFillFrames [0x14770000, 0x15D00000] (inStage .sendReadData 0x04 7)
    s.st = .sendReadData ∧ encode (.dpr 0 7) = .command 0x04 7 ∧ isTransfer 0x04 = true ∧ (0x04#8).getLsbD 2 = true ∧
    s.cmd = some 0x04 ∧ s.phase = .waitDone ∧ s.busy = false ∧ s.count = 2 ∧
    s.slots = ⟨some 0xFFFF, some 16, none⟩ :: ⟨some 0x1FFFF, some 17, none⟩ :: [.invalid, .invalid] ∧
    s.rxq = 0x14770000 :: 0x15D00000 :: [] := by decide
theorem witness_WriteDataEndsOk :
    let s := shifted (writeFrames 7) [0, 1] (inStage .sendWriteData 0x02 7)
    s.st = .sendWriteData ∧ encode (.apw 0 7) = .command 0x02 7 ∧ isTransfer 0x02 = true ∧ (0x02#8).getLsbD 2 = false ∧
    s.cmd = some 0x02 ∧ s.wdata = some 7 ∧ s.phase = .waitDone ∧ s.busy = false ∧ s.count = 2 ∧
    s.slots = ⟨some 7, some 16, none⟩ :: ⟨some 0x10000, some 17, none⟩ :: [.invalid, .invalid] ∧ s.rxq = 0 :: 1 :: [] := by decide
theorem witness_IdleEndsTheTransaction :
    let s := shifted [idleFrame] [5] { inStage .sendIdle 0x02 7 with outcome := some 3 }
    s.st = .sendIdle ∧ encode (.apw 0 7) = .command 0x02 7 ∧ isTransfer 0x02 = true ∧ s.latched 0x02 7 = true ∧
    s.outcome = some 3 ∧ s.phase = .waitDone ∧ s.busy = false ∧ s.count = 1 ∧
    s.slots = ⟨some 0, some 8, none⟩ :: [.invalid, .invalid, .invalid] ∧ s.rxq = 5 :: [] := by decide

/-- The invariant of a state with an idle shifter, from its stage and its exchange. -/
theorem inv_of (s : State) (h : s.slots.length = 4 ∧ s.count ≤ 4 ∧ s.txq.length ≤ 4 ∧ s.rxq.length ≤ 4 ∧ s.shifter = none ∧
    s.bitOrder = .lsbFirst ∧ s.cmd.isSome = s.wdata.isSome ∧ ∀ f ∈ s.txq, frameLenOk f.len = true)
    (hs : StageOk s) (hx : ExchangeOk s) : Inv s := by
  obtain ⟨h1, h2, h3, h4, h5, h6, h7, h8⟩ := h
  exact ⟨h1, h2, h3, h4, h8, by simp [h5], h6, h7, hs, hx⟩

/-- A full receive queue where the batch is one frame; else levels that leave too little space for it, but some. -/
theorem witness_CapacityErrorEndsTheCommand_header :
    let s := { inStage .sendHeader 0x04 0 with rxq := [0, 0, 0, 0] }
    Inv s ∧ encode (.dpr 0 0) = .command 0x04 0 ∧ s.latched 0x04 0 = true ∧ s.phase = .call ∧
    s.dueBatch = some [⟨0xA5, 12⟩] ∧ 1 > 4 - s.rxq.length :=
  ⟨inv_of _ (by decide) ⟨0x04, by decide, by decide, by decide, fun h => absurd rfl h⟩ (.inl rfl),
    by decide, by decide, rfl, by decide, by decide⟩
theorem witness_CapacityErrorEndsTheCommand_read :
    let s := { inStage .sendReadData 0x04 0 with ack := some 1, rxq := [0, 0, 0] }
    Inv s ∧ encode (.dpr 0 9) = .command 0x04 9 ∧ s.latched 0x04 9 = true ∧ s.phase = .call ∧
    s.dueBatch = some readFillFrames ∧ readFillFrames.length > 4 - s.rxq.length :=
  ⟨inv_of _ (by decide) ⟨0x04, 1, by decide, by decide, by decide, by decide, by decide, by decide, by decide, by decide⟩ (.inl rfl),
    by decide, by decide, rfl, by decide, by decide⟩
theorem witness_CapacityErrorEndsTheCommand_write :
    let s := { inStage .sendWriteData 0x00 7 with ack := some 1, txq := [idleFrame, idleFrame, idleFrame] }
    Inv s ∧ encode (.dpw 0 7) = .command 0x00 7 ∧ s.latched 0x00 7 = true ∧ s.phase = .call ∧
    s.dueBatch = some (writeFrames 7) ∧ (writeFrames 7).length > 4 - s.txq.length :=
  ⟨inv_of _ (by decide) ⟨0x00, 1, by decide, by decide, by decide, by decide, by decide, by decide, by decide, by decide⟩ (.inl rfl),
    by decide, by decide, rfl, by decide, by decide⟩
theorem witness_CapacityErrorEndsTheCommand_idle :
    let s := { inStage .sendIdle 0x00 0 with ack := some 2, outcome := some 1, rxq := [0, 0, 0, 0] }
    Inv s ∧ encode (.dpw 0 0) = .command 0x00 0 ∧ s.latched 0x00 0 = true ∧ s.phase = .call ∧
    s.dueBatch = some [idleFrame] ∧ 1 > 4 - s.rxq.length :=
  ⟨inv_of _ (by decide) ⟨0x00, by decide, by decide, 2, 1, by decide, by decide, .inl (by decide)⟩ (.inl rfl),
    by decide, by decide, rfl, by decide, by decide⟩
/-- L9 and L10: a line reset finds one received word left over. -/
theorem witness_CapacityErrorEndsTheCommand_sequence :
    let s := { inStage .sendSequence 0x20 0 with seq := some lineResetSeq, seqIdx := some 0, rxq := [0] }
    Inv s ∧ encode (.lineReset 3) = .command 0x20 3 ∧ s.latched 0x20 3 = true ∧ s.phase = .call ∧
    s.dueBatch = some lineResetBatch ∧ lineResetBatch.length > 4 - s.rxq.length :=
  ⟨inv_of _ (by decide) ⟨0x20, 0, rfl, by decide, ⟨rfl, rfl, rfl, rfl⟩, rfl, rfl, by decide⟩ (.inl rfl),
    by decide, by decide, rfl, by decide, by decide⟩

/-- The last batch of CONNECT and one before it. -/
theorem witness_SequenceCountsItsBatches :
    (let s := shifted lineResetBatch [0, 0, 0, 0] { inStage .sendSequence 0x60 0 with seq := some connectSeq, seqIdx := some 5 }
     Inv s ∧ s.st = .sendSequence ∧ encode (.connect 0) = .command 0x60 0 ∧ s.cmd = some 0x60 ∧
     s.seqIdx = some 5 ∧ (sequenceOf 0x60)[5]? = some lineResetBatch ∧ s.phase = .waitDone ∧ s.busy = false) ∧
    (let s := shifted switchBatch [0] { inStage .sendSequence 0x60 0 with seq := some connectSeq, seqIdx := some 1 }
     Inv s ∧ s.seqIdx = some 1 ∧ (sequenceOf 0x60)[1]? = some switchBatch ∧ s.phase = .waitDone ∧ s.busy = false) :=
  ⟨⟨inv_of _ (by decide) ⟨0x60, 5, rfl, by decide, ⟨rfl, rfl, rfl, rfl⟩, rfl, rfl, by decide⟩
      (.inr ⟨lineResetBatch, by decide, by decide, by decide, by decide⟩),
    rfl, by decide, rfl, rfl, by decide, rfl, by decide⟩,
   ⟨inv_of _ (by decide) ⟨0x60, 1, rfl, by decide, ⟨rfl, rfl, rfl, rfl⟩, rfl, rfl, by decide⟩
      (.inr ⟨switchBatch, by decide, by decide, by decide, by decide⟩),
    rfl, by decide, rfl, by decide⟩⟩

theorem witness_ExecKeepsTheCommandAndTheConfiguration :
    ∃ t, exec (.dpr 0 0) { inStage .awaitAck 0x04 0 with hresp := some 0x400 } = .next t ∧ (inStage .awaitAck 0x04 0).st ≠ .ready :=
  ⟨_, rfl, by decide⟩
theorem witness_LineControlSetsNoTransferResult :
    ∃ t, exec (.lineReset 0) { inStage .sendSequence 0x20 0 with seq := some lineResetSeq, seqIdx := some 0 } = .next t ∧
      (inStage .sendSequence 0x20 0).st ≠ .ready := ⟨_, rfl, by decide⟩
theorem witness_TransferWritesEachResultInItsState :
    ∃ t, exec (.apr 3 0) (inStage .sendHeader 0x1E 0) = .next t ∧ (inStage .sendHeader 0x1E 0).st ≠ .ready := ⟨_, rfl, by decide⟩

/-- The three clauses: an offer in READY, a header due, a latched command. -/
theorem witness_StepRunsTheDecodedInstruction :
    (let s := { State.reset with port := { PortIn.idle with cmdValid := true, cmd := 0x20, wdata := 1 } }
     s.tornDown = false ∧ s.peripheralMoves = false ∧ readFault s = none ∧ s.port.teardown = false ∧ s.st = .ready ∧
     s.port.cmdValid = true ∧ decode (.command s.port.cmd s.port.wdata) = .ok (.lineReset 1)) ∧
    (let s := inStage .sendHeader 0x04 0
     s.tornDown = false ∧ s.peripheralMoves = false ∧ readFault s = none ∧ s.port.teardown = false ∧
     s.headerDue = some 0xA5 ∧ decode (.header 0xA5) = .ok (.hdrDpRead 0 true)) ∧
    (let s := inStage .sendIdle 0x04 0
     s.tornDown = false ∧ s.peripheralMoves = false ∧ readFault s = none ∧ s.port.teardown = false ∧
     s.st ∈ [EngineState.awaitAck, .sendReadData, .sendWriteData, .sendIdle, .sendSequence] ∧
     s.latched 0x04 5 = true ∧ decode (.command 0x04 5) = .ok (.dpr 0 5)) := by decide
theorem witness_PlacedWordIsRunNext :
    decodeTableWord 8 0x1E = some (.apr 3 0) ∧ decodeTableWord 8 0x9F = some (.hdrApRead 3 false) := by decide

/-- A step from READY that accepts. -/
theorem witness_step : ∃ t, step (State.reset.withFetchWord 8 0x04) = .next t := ⟨_, rfl⟩
/-- A step in a later state, one in READY with nothing offered, and one of the peripheral in READY with a command offered. -/
theorem witness_CommandIsFixedUntilTheNextAcceptance :
    (∃ t, step { inStage .awaitAck 0x04 0 with hresp := some 0x200 } = .next t) ∧
    (let s := State.reset
     (∃ t, step s = .next t) ∧ s.tornDown = false ∧ s.peripheralMoves = false ∧ readFault s = none ∧ s.port.teardown = false ∧
       s.st = .ready ∧ s.port.cmdValid = false) ∧
    (let s := { shifting with turn := .peripheral, port := { PortIn.idle with cmdValid := true, cmd := 0x20 } }
     (∃ t, step s = .next t) ∧ s.st = .ready ∧ s.port.cmdValid = true ∧ s.peripheralMoves = true) :=
  ⟨⟨_, rfl⟩, ⟨⟨_, rfl⟩, by decide⟩, ⟨_, rfl⟩, by decide⟩
/-- After a teardown; a request in each of READY, DONE and FAULTED, one of them with a good read; and one in mid-command. -/
theorem witness_NoStepAfterTeardown :
    let asked := { PortIn.idle with teardown := true }
    ({ State.reset with tornDown := true } : State).tornDown = true ∧
    (∀ s ∈ [{ State.reset with port := asked }, { inStage .faulted 0x21 0 with port := asked },
        { inStage .done 0x20 0 with outcome := some 0, port := { asked with read := some .outcome } }],
      s.tornDown = false ∧ s.peripheralMoves = false ∧ readFault s = none ∧ s.port.teardown = true ∧
        s.st ∈ [EngineState.ready, .done, .faulted]) ∧
    (let s := { inStage .awaitAck 0x04 0 with port := asked }
     s.tornDown = false ∧ s.peripheralMoves = false ∧ readFault s = none ∧ s.port.teardown = true ∧
       s.st ∉ [EngineState.ready, .done, .faulted]) := by decide

/-- The invariant and exclusive ownership in a state with the header's word in flight and offered to the capture. -/
def inFlight : State := { shifted [⟨0xA5, 12⟩] [0x20000000] (inStage .sendHeader 0x04 0) with hdr := some 0xA5 }
theorem witness_inv : Inv inFlight :=
  inv_of _ (by decide) ⟨0x04, by decide, by decide, by decide, by decide⟩
    (.inr ⟨[⟨0xA5, 12⟩], by decide, by decide, by decide, by decide⟩)
theorem witness_StepKeepsTheInvariant : Inv inFlight ∧ ∃ t, step inFlight = .next t := ⟨witness_inv, _, rfl⟩
theorem witness_exclusive : Exclusive inFlight := ⟨witness_inv, by decide, by decide, by decide⟩
theorem witness_StepKeepsExclusiveOwnership : Exclusive inFlight ∧ ∃ t, step inFlight = .next t := ⟨witness_exclusive, _, rfl⟩
theorem witness_BlockNeverStopsItself : Inv inFlight ∧ inFlight.tornDown = false ∧ HostObeys inFlight :=
  ⟨witness_inv, rfl, by decide, by decide, by decide, by decide⟩
/-- A call on a busy peripheral; then the second wait with the word still queued, and the first wait behind a word left over. -/
theorem witness_EngineWaitsForTheBusyPeripheral :
    (∃ t, (leftOver 1 0).busy = true ∧ exec (.connect 0) (leftOver 1 0) = .next t) ∧
    (let s := { inFlight with txq := [⟨0xA5, 12⟩], rxq := [] }
     Inv s ∧ s.busy = true ∧ s.phase = .waitDone ∧ s.st = .sendHeader) ∧
    (let s := { inFlight with txq := [idleFrame], rxq := [], phase := .waitPush }
     Inv s ∧ s.busy = true ∧ s.phase = .waitPush ∧ s.st = .sendHeader) :=
  ⟨⟨_, by decide, rfl⟩,
   ⟨inv_of _ (by decide) ⟨0x04, by decide, by decide, by decide, by decide⟩
      (.inr ⟨[⟨0xA5, 12⟩], by decide, by decide, by decide, by decide⟩), by decide⟩,
   ⟨inv_of _ (by decide) ⟨0x04, by decide, by decide, by decide, by decide⟩
      (.inr ⟨[⟨0xA5, 12⟩], by decide, by decide, by decide, by decide⟩), by decide⟩⟩
theorem witness_PeripheralDrainsInBoundedMoves : Inv inFlight ∧ inFlight.wordsHeld ≤ 4 := ⟨witness_inv, by decide⟩
/-- The end of an AP write answered WAIT, and of one answered OK; P3's tries. -/
def endedWait : State := { inStage .faulted 0x1A 7 with ack := some 2, outcome := some 1 }
def endedOk : State := { inStage .done 0x1A 7 with ack := some 1, outcome := some 0 }
def tries (n : Nat) : Response :=
  if n < 2 then { resp 0x1A 1 (some 2) with wdata := some 7 } else { resp 0x1A 0 (some 1) with wdata := some 7 }
theorem inv_endedWait : Inv endedWait :=
  inv_of _ (by decide) ⟨0x1A, 1, by decide, .inl ⟨2, 1, by decide, by decide, .inl (by decide)⟩, by decide, by decide⟩ (.inl rfl)
theorem inv_endedOk : Inv endedOk :=
  inv_of _ (by decide) ⟨0x1A, by decide, .inl ⟨1, 0, by decide, by decide, .inr (.inl (by decide))⟩, by decide⟩ (.inl rfl)
theorem witness_RetryEndsUnderThePremise :
    (∀ k, GivenTo 0x1A (tries k)) ∧ TargetView.start.premised = true ∧ TargetEventuallyAccepts .start tries := by
  refine ⟨fun k => ?_, rfl, fun _ => ⟨2, .ok, by decide⟩⟩
  unfold tries
  split
  · exact ⟨rfl, endedWait, inv_endedWait, by decide, by decide⟩
  · exact ⟨rfl, endedOk, inv_endedOk, by decide, by decide⟩

theorem witness_WholeCommands :
    State.reset.st = .ready ∧ State.reset.Quiet ∧ State.reset.bitOrder = .lsbFirst ∧ State.reset.slots.length = 4 :=
  ⟨rfl, ⟨rfl, rfl, rfl, rfl⟩, rfl, rfl⟩

end Sys2Proof.Tests
end

section
/-! ## What a step can do

One inversion lemma for each layer of the step, from the schedule down to the stage of the latched command. -/

namespace Sys2Proof.Machine

/-- All that a step can do when it answers a next state: a move of the peripheral or one of the engine. -/
theorem step_next {s t : State} (h : step s = .next t) :
    s.tornDown = false ∧
      ((s.peripheralMoves = true ∧ ∃ u, tick s = .next u ∧ t = afterTick u) ∨
       (s.peripheralMoves = false ∧ ∃ u, engineMove s = .next u ∧ t = afterMove u)) := by
  unfold step stepOnce at h
  split at h
  · simp at h
  · rename_i htd
    refine ⟨by simpa using htd, ?_⟩
    split at h
    · rename_i hp; exact .inl ⟨hp, mapNext_eq_next h⟩
    · rename_i hp; exact .inr ⟨by simpa using hp, mapNext_eq_next h⟩

/-- A move of the engine that answers a next state is a teardown or the move of the engine's state. -/
theorem engineMove_next {s t : State} (h : engineMove s = .next t) :
    (s.port.teardown = true ∧ s.inProgress = false ∧ t = { s with tornDown := true }) ∨
      (s.port.teardown = false ∧ stateMove s = .next t) := by
  unfold engineMove at h
  split at h
  · simp at h
  · split at h
    · rename_i htd
      split at h
      · simp at h
      · rename_i hp
        simp only [Host.Outcome.next.injEq] at h
        exact .inl ⟨htd, by simpa using hp, h.symm⟩
    · rename_i htd; exact .inr ⟨by simpa using htd, h⟩

theorem State.inProgress_iff (s : State) : s.inProgress = true ↔ s.st ≠ .ready ∧ s.st ≠ .done ∧ s.st ≠ .faulted := by
  cases h : s.st <;> simp [State.inProgress, State.cmdReady, State.rspValid, h]

theorem stateMove_ready {s : State} (h : s.st = .ready) : stateMove s = readyMove s := by
  simp only [stateMove, h]

theorem stateMove_response {s : State} (h : s.st = .done ∨ s.st = .faulted) : stateMove s = responseMove s := by
  rcases h with h | h <;> simp only [stateMove, h]

theorem stateMove_inProgress {s : State} (h : s.inProgress = true) : stateMove s = progressMove s := by
  obtain ⟨hr, hd, hf⟩ := s.inProgress_iff.1 h
  cases hs : s.st <;> simp_all [stateMove]

/-- The three kinds of engine states: READY, a response, a command in progress. -/
theorem State.st_cases (s : State) : s.st = .ready ∨ (s.st = .done ∨ s.st = .faulted) ∨ s.inProgress = true := by
  rw [s.inProgress_iff]
  tauto

theorem responseMove_eq (s : State) : responseMove s = .next (if s.port.rspTake then s.takeResponse else s) := by
  unfold responseMove
  split <;> rfl

theorem readyMove_no_offer {s : State} (h : s.port.cmdValid = false) : readyMove s = .next s := by
  simp [readyMove, h]

/-- A command word that is neither a TRANSFER nor a line-control command is reserved (30_encoding.md rules R50, R51). -/
theorem command_kinds (c : Byte) : isTransfer c = true ∨ isLineControl c = true ∨ reservedCommand c = true := by
  revert c; decide

theorem not_reserved_of_isTransfer {c : Byte} (h : isTransfer c = true) : reservedCommand c = false := by
  revert c; decide

theorem lineControl_excludes {c : Byte} (h : isLineControl c = true) : reservedCommand c = false ∧ isTransfer c = false := by
  revert c; decide

theorem reserved_excludes {c : Byte} (h : reservedCommand c = true) : isTransfer c = false ∧ isLineControl c = false := by
  revert c; decide

theorem decodeCommand_lineControl {c : Byte} (h : isLineControl c = true) (d : Word) : ∃ i, decodeCommand c d = .ok i := by
  rcases isLineControl_cases h with rfl | rfl | rfl
  exacts [⟨.lineReset d, rfl⟩, ⟨.switchToSwd d, rfl⟩, ⟨.connect d, rfl⟩]

theorem reservedCommand_of_decode_error {c : Byte} {d : Word} {e : DecodeError} (h : decodeCommand c d = .error e) :
    reservedCommand c = true := by
  rcases command_kinds c with ht | hl | hr
  · simp [decodeCommand_transfer ht] at h
  · obtain ⟨i, hi⟩ := decodeCommand_lineControl hl d
    simp [hi] at h
  · exact hr

/-- The state in which READY leaves an offered command (42_engine.md rule R85, 43_line.md rule R107). -/
def State.accepted (s : State) (c : Byte) (d : Word) : State :=
  if isTransfer c then s.acceptTransfer c d
  else if isLineControl c then s.acceptSequence c d (sequenceOf c)
  else s.acceptReserved c d

theorem isLineControl_of_decode {c : Byte} {d : Word} {i : Instr} (h : decodeCommand c d = .ok i) (ht : isTransfer c = false) :
    isLineControl c = true := by
  rcases decodeCommand_ok h with ⟨h, -⟩ | ⟨rfl, -⟩ | ⟨rfl, -⟩ | ⟨rfl, -⟩
  · simp [ht] at h
  all_goals rfl

theorem readyMove_offer {s : State} (hs : s.st = .ready) (hv : s.port.cmdValid = true) :
    readyMove s = .next (s.accepted s.port.cmd s.port.wdata) := by
  simp only [readyMove, hv, if_true, decode]
  split
  · rename_i i hi
    rw [exec_ready hs hi]
    cases ht : isTransfer s.port.cmd
    · simp [State.accepted, ht, isLineControl_of_decode hi ht, sequenceOf]
    · simp [State.accepted, ht]
  · rename_i e he
    obtain ⟨ht, hl⟩ := reserved_excludes (reservedCommand_of_decode_error he)
    simp [State.accepted, ht, hl]

/-! ### The command in progress -/

/-- The stage that the latched command `c` runs through next. -/
def commandStage (c : Byte) (s : State) : Host.Outcome State Fault Refusal :=
  if isTransfer c then transferStage (fieldAPnDP c) (fieldRnW c) (fieldAddr c) s else sequenceStage s

theorem commandStage_sendHeader {c : Byte} {s : State} (ht : isTransfer c = true) (hs : s.st = .sendHeader) :
    commandStage c s = sendHeader (fieldRnW c) (headerOfCommand c) s := by
  simp only [commandStage, ht, if_true, transferStage, hs]
  rfl

/-- The instruction the engine is at, in SEND_HEADER. -/
theorem currentInstr_sendHeader {s : State} {i : Instr} (hs : s.st = .sendHeader) :
    currentInstr s = .ok i ↔ ∃ h, s.headerDue = some h ∧ decodeHeader h = .ok i := by
  simp only [currentInstr, hs, decode]
  cases s.headerDue with
  | none => simp
  | some h => cases hd : decodeHeader h <;> simp [hd]

/-- The instruction the engine is at, in the other states. -/
theorem currentInstr_latched {s : State} {i : Instr} (hs : s.st ≠ .sendHeader) :
    currentInstr s = .ok i ↔ ∃ c d, s.cmd = some c ∧ s.requestData c = .ok d ∧ decodeCommand c d = .ok i := by
  unfold currentInstr
  split
  · contradiction
  · cases s.cmd with
    | none => simp
    | some c =>
      cases hr : s.requestData c with
      | error f => simp [hr]
      | ok d => cases hd : decodeCommand c d <;> simp [decode, hr, hd]

/-- The instruction the engine is at while a command is in progress runs the stage of that command. -/
theorem exec_currentInstr {s : State} {i : Instr} (hp : s.inProgress = true) (hi : currentInstr s = .ok i) :
    ∃ c, s.cmd = some c ∧ exec i s = commandStage c s := by
  have hready : s.st ≠ .ready := (s.inProgress_iff.1 hp).1
  by_cases hs : s.st = .sendHeader
  · obtain ⟨h, hd, hi⟩ := (currentInstr_sendHeader hs).1 hi
    obtain ⟨c, hc, ht, hx⟩ := exec_dueHeader hd hi
    exact ⟨c, hc, by rw [hx, commandStage_sendHeader ht hs]⟩
  · obtain ⟨c, d, hc, hr, hi⟩ := (currentInstr_latched hs).1 hi
    refine ⟨c, hc, ?_⟩
    cases ht : isTransfer c
    · rw [exec_latchedSequence hready (isLineControl_of_decode hi ht) hi hc]
      simp [commandStage, ht]
    · rw [exec_latchedTransfer hready ht hi (State.latched_of_requestData hc hr)]
      simp [commandStage, ht]

/-- A move of a command in progress that answers a next state is that command's stage. -/
theorem progressMove_next {s t : State} (hp : s.inProgress = true) (h : progressMove s = .next t) :
    ∃ c, s.cmd = some c ∧ commandStage c s = .next t := by
  unfold progressMove at h
  split at h
  · rename_i i hi
    obtain ⟨c, hc, hx⟩ := exec_currentInstr hp hi
    exact ⟨c, hc, hx ▸ h⟩
  · simp at h

theorem sequenceStage_next {s t : State} (h : sequenceStage s = .next t) :
    (s.st = .sendSequence ∧ sendSequence s = .next t) ∨ (s.inProgress = false ∧ t = s) := by
  by_cases hs : s.st = .sendSequence
  · exact .inl ⟨hs, by simpa only [sequenceStage, hs] using h⟩
  · right
    cases hst : s.st <;> simp_all [sequenceStage, State.inProgress, State.cmdReady, State.rspValid]

/-- All that the move of the engine's state can do when it answers a next state. -/
theorem stateMove_next {s t : State} (h : stateMove s = .next t) :
    (s.st = .ready ∧ s.port.cmdValid = false ∧ t = s) ∨
    (s.st = .ready ∧ s.port.cmdValid = true ∧ t = s.accepted s.port.cmd s.port.wdata) ∨
    ((s.st = .done ∨ s.st = .faulted) ∧ t = if s.port.rspTake then s.takeResponse else s) ∨
    (s.inProgress = true ∧ ∃ c, s.cmd = some c ∧ commandStage c s = .next t) := by
  rcases s.st_cases with hs | hs | hp
  · rw [stateMove_ready hs] at h
    cases hv : s.port.cmdValid
    · rw [readyMove_no_offer hv, Host.Outcome.next.injEq] at h
      exact .inl ⟨hs, rfl, h.symm⟩
    · rw [readyMove_offer hs hv, Host.Outcome.next.injEq] at h
      exact .inr (.inl ⟨hs, rfl, h.symm⟩)
  · rw [stateMove_response hs, responseMove_eq, Host.Outcome.next.injEq] at h
    exact .inr (.inr (.inl ⟨hs, h.symm⟩))
  · rw [stateMove_inProgress hp] at h
    exact .inr (.inr (.inr ⟨hp, progressMove_next hp h⟩))

end Sys2Proof.Machine
end

section
/-! ## The latched command and the trace

What every move but an acceptance keeps: the command, its data, and the trace so far. -/

namespace Sys2Proof.Machine

/-- `t` has the command and the data of `s`, and its trace continues that of `s`. -/
structure Continues (s t : State) : Prop where
  cmd   : t.cmd = s.cmd
  wdata : t.wdata = s.wdata
  trace : s.trace <+: t.trace

theorem Continues.refl (s : State) : Continues s s := ⟨rfl, rfl, List.prefix_rfl⟩

/-- Outside the trace a peripheral's step touches its queues, its shifter and the draw counter (10_state.md rule R26). -/
theorem tick_frame {s t : State} (h : tick s = .next t) :
    t = { s with txq := t.txq, shifter := t.shifter, rxq := t.rxq, trace := t.trace, draws := t.draws } := by
  rcases tick_next h with ⟨-, -, rfl⟩ | ⟨f, rest, -, -, -, rfl⟩ | ⟨sh, -, -, -, rfl⟩ | ⟨sh, -, -, -, -, rfl⟩ <;> rfl

theorem tick_trace {s t : State} (h : tick s = .next t) : s.trace <+: t.trace := by
  rcases tick_next h with ⟨-, -, rfl⟩ | ⟨f, rest, -, -, -, rfl⟩ | ⟨sh, -, -, -, rfl⟩ | ⟨sh, -, -, -, -, rfl⟩
  · exact List.prefix_rfl
  · exact List.prefix_rfl
  · exact List.prefix_append _ _
  · exact List.prefix_append _ _

theorem Continues.of_tick {s t : State} (h : tick s = .next t) : Continues s t :=
  ⟨by rw [tick_frame h], by rw [tick_frame h], tick_trace h⟩

theorem pushBatch_trace {s t : State} (h : (pushBatch s).state? = some t) : s.trace <+: t.trace := by
  unfold pushBatch at h
  split at h
  · simp only [Exchanged.state?, Option.some.injEq] at h; subst h; exact List.prefix_rfl
  · split at h <;> simp only [Exchanged.state?, reduceCtorEq, Option.some.injEq] at h
    subst h; exact List.prefix_append _ _

theorem captureBatch_trace {s t : State} (h : (captureBatch s).state? = some t) : t.trace = s.trace := by
  unfold captureBatch at h
  split at h <;> simp only [Exchanged.state?, reduceCtorEq, Option.some.injEq] at h
  subst h; rfl

/-- A call of `exchange` adds to the trace or leaves it (40_transport.md rule R76). -/
theorem exchange_trace {fs : List Frame} {s t : State} (h : (exchange fs s).state? = some t) : s.trace <+: t.trace := by
  have populated : ∀ {u : State}, (s.populate fs).trace <+: u.trace → s.trace <+: u.trace := by simp
  have same : ∀ {u : State}, some u = some t → u.trace = s.trace → s.trace <+: t.trace := by
    rintro u ⟨⟩ hu; rw [hu]
  unfold exchange at h
  split at h
  · split at h
    · simp [Exchanged.state?] at h
    · split at h
      · simp [Exchanged.state?] at h
      · split at h
        · exact same h (by simp)
        · split at h
          · exact same h (by simp)
          · exact populated (pushBatch_trace h)
  · split at h
    · exact same h rfl
    · exact pushBatch_trace h
  · split at h
    · exact same h rfl
    · rw [captureBatch_trace h]

theorem Continues.of_exchange {fs : List Frame} {s t : State} (h : (exchange fs s).state? = some t) : Continues s t :=
  ⟨by rw [exchange_frame h], by rw [exchange_frame h], exchange_trace h⟩

/-- A stage built on an exchange continues its state if what it does with the exchange's samples does. -/
theorem Continues.of_onExchange {fs : List Frame} {s t : State} {k : State → List Word → Host.Outcome State Fault Refusal}
    (h : onExchange (exchange fs s) k = .next t) (hk : ∀ u xs, Continues s u → k u xs = .next t → Continues s t) :
    Continues s t := by
  rcases onExchange_next h with ⟨u, hx, rfl⟩ | hx | ⟨u, xs, hx, hu⟩
  · obtain ⟨hc, hd, ht⟩ : Continues s u := .of_exchange (by rw [hx]; rfl)
    exact ⟨hc, hd, ht⟩
  · exact .of_exchange (by rw [hx]; rfl)
  · exact hk u xs (.of_exchange (by rw [hx]; rfl)) hu

theorem Continues.of_sendHeader {r : Bool} {hdr : Byte} {s t : State} (h : sendHeader r hdr s = .next t) : Continues s t := by
  have sent : Continues { s with hdr := some hdr } t := by
    refine .of_onExchange h fun u xs hu hk => ?_
    split at hk
    · simp only [Host.Outcome.next.injEq] at hk; subst hk; exact ⟨hu.cmd, hu.wdata, hu.trace⟩
    · simp at hk
  exact ⟨sent.cmd, sent.wdata, sent.trace⟩

theorem Continues.of_awaitAck {r : Bool} {s t : State} (h : awaitAck r s = .next t) : Continues s t := by
  obtain ⟨hr, -, ⟨-, rfl⟩ | ⟨e, -, -, -, rfl⟩⟩ := awaitAck_next h <;> exact ⟨rfl, rfl, List.prefix_rfl⟩

theorem Continues.of_sendReadData {s t : State} (h : sendReadData s = .next t) : Continues s t := by
  refine .of_onExchange h fun u xs hu hk => ?_
  split at hk
  · split at hk <;> simp only [Host.Outcome.next.injEq] at hk <;> subst hk <;> exact ⟨hu.cmd, hu.wdata, hu.trace⟩
  · simp at hk

theorem Continues.of_sendWriteData {s t : State} (h : sendWriteData s = .next t) : Continues s t := by
  unfold sendWriteData at h
  split at h
  · simp at h
  · refine .of_onExchange h fun u xs hu hk => ?_
    simp only [Host.Outcome.next.injEq] at hk; subst hk; exact ⟨hu.cmd, hu.wdata, hu.trace⟩

theorem Continues.of_sendIdle {s t : State} (h : sendIdle s = .next t) : Continues s t := by
  refine .of_onExchange h fun u xs hu hk => ?_
  split at hk
  · simp at hk
  · simp only [Host.Outcome.next.injEq] at hk; subst hk; exact ⟨hu.cmd, hu.wdata, hu.trace⟩

theorem Continues.of_sendSequence {s t : State} (h : sendSequence s = .next t) : Continues s t := by
  unfold sendSequence at h
  split at h
  · simp at h
  · simp at h
  · split at h
    · simp at h
    · refine .of_onExchange h fun u xs hu hk => ?_
      split at hk <;> simp only [Host.Outcome.next.injEq] at hk <;> subst hk <;> exact ⟨hu.cmd, hu.wdata, hu.trace⟩

/-- The stage of the command in progress keeps the command. -/
theorem Continues.of_commandStage {c : Byte} {s t : State} (h : commandStage c s = .next t) : Continues s t := by
  unfold commandStage at h
  split at h
  · rcases transferStage_next h with ⟨-, h⟩ | ⟨-, h⟩ | ⟨-, -, h⟩ | ⟨-, -, h⟩ | ⟨-, h⟩ | ⟨-, rfl⟩
    exacts [.of_sendHeader h, .of_awaitAck h, .of_sendReadData h, .of_sendWriteData h, .of_sendIdle h, .refl t]
  · rcases sequenceStage_next h with ⟨-, h⟩ | ⟨-, rfl⟩
    exacts [.of_sendSequence h, .refl t]

theorem State.accepted_trace (s : State) (c : Byte) (d : Word) : (s.accepted c d).trace = s.trace := by
  unfold State.accepted
  split
  · rfl
  · split <;> rfl

/-- The engine's move in READY accepts the command offered (20_memory.md rule R40; a teardown comes first). -/
def State.accepts (s : State) : Prop :=
  s.st = .ready ∧ s.port.cmdValid = true ∧ s.peripheralMoves = false ∧ s.port.teardown = false

/-- A step is an acceptance, or it keeps the latched command; the trace grows either way. -/
theorem step_accepts_or_continues {s t : State} (h : step s = .next t) :
    (s.accepts ∧ t.trace = s.trace) ∨ Continues s t := by
  obtain ⟨-, ⟨-, u, hu, rfl⟩ | ⟨hp, u, hu, rfl⟩⟩ := step_next h
  · have hc := Continues.of_tick hu
    exact .inr ⟨hc.cmd, hc.wdata, hc.trace⟩
  · rcases engineMove_next hu with ⟨-, -, rfl⟩ | ⟨htd, hu⟩
    · exact .inr ⟨rfl, rfl, List.prefix_rfl⟩
    · rcases stateMove_next hu with ⟨-, -, rfl⟩ | ⟨hs, hv, rfl⟩ | ⟨-, rfl⟩ | ⟨-, c, -, hu⟩
      · exact .inr ⟨rfl, rfl, List.prefix_rfl⟩
      · exact .inl ⟨⟨hs, hv, hp, htd⟩, State.accepted_trace s _ _⟩
      · right
        split <;> exact ⟨rfl, rfl, List.prefix_rfl⟩
      · have hc := Continues.of_commandStage hu
        exact .inr ⟨hc.cmd, hc.wdata, hc.trace⟩

/-- Settles O47: an acceptance leaves the trace, every other step continues it. -/
theorem traceOnlyGrows : Obligations.TraceOnlyGrows := by
  intro s t h
  have grows : s.trace <+: t.trace := by
    rcases step_accepts_or_continues h with ⟨-, ht⟩ | hc
    · rw [ht]
    · exact hc.trace
  obtain ⟨events, he⟩ := grows
  exact ⟨events, he.symm⟩

/-- The step of an engine that moves with no read that faults and no teardown. -/
theorem step_stateMove {s : State} (htd : s.tornDown = false) (hp : s.peripheralMoves = false) (hr : readFault s = none)
    (hd : s.port.teardown = false) : step s = mapNext afterMove (stateMove s) := by
  simp [step, stepOnce, engineMove, htd, hp, hr, hd]

/-- Settles O48: every step but an acceptance continues the command, and READY with nothing offered moves nothing. -/
theorem commandIsFixedUntilTheNextAcceptance : Obligations.CommandIsFixedUntilTheNextAcceptance := by
  constructor
  · intro s t h hna
    obtain ⟨hc, hd, -⟩ := (step_accepts_or_continues h).resolve_left fun ha => hna ha.1
    exact ⟨hc, hd⟩
  · intro s htd hp hr hd hs hv
    rw [step_stateMove htd hp hr hd, stateMove_ready hs, readyMove_no_offer hv]
    rfl

end Sys2Proof.Machine
end

section
/-! ## The port is not read in mid-command

No meaning of an instruction reads the host's lines or keeps a trace of them, so what is offered outside READY is lost
(10_state.md rule R20). -/

namespace Sys2Proof.Machine

/-- `s` with other lines driven by the host. -/
def State.withPort (s : State) (p : PortIn) : State := { s with port := p }

/-- The end of an exchange with every state in it changed by `f`. -/
def Exchanged.mapState (f : State → State) : Exchanged → Exchanged
  | .refused r => .refused r
  | .fault r => .fault r
  | .capacity t => .capacity (f t)
  | .pending t => .pending (f t)
  | .done t xs => .done (f t) xs

section
variable (s : State) (p : PortIn)

theorem populate_withPort (fs : List Frame) : (s.withPort p).populate fs = (s.populate fs).withPort p := by
  unfold State.populate
  split <;> rfl

theorem pushBatch_withPort : pushBatch (s.withPort p) = (pushBatch s).mapState (·.withPort p) := by
  have hcount : (s.withPort p).count = s.count := rfl
  have hslots : (s.withPort p).slots = s.slots := rfl
  unfold pushBatch
  rw [hcount, hslots]
  split
  · rfl
  · split <;> rfl

theorem captureBatch_withPort : captureBatch (s.withPort p) = (captureBatch s).mapState (·.withPort p) := by
  simp only [captureBatch, State.withPort]
  split <;> rfl

theorem exchange_withPort (fs : List Frame) : exchange fs (s.withPort p) = (exchange fs s).mapState (·.withPort p) := by
  have hphase : (s.withPort p).phase = s.phase := rfl
  have hbusy : (s.withPort p).busy = s.busy := rfl
  have horder : (s.withPort p).bitOrder = s.bitOrder := rfl
  have htx : (s.withPort p).txLevel = s.txLevel := rfl
  have hrx : (s.withPort p).rxLevel = s.rxLevel := rfl
  simp only [exchange, hphase, hbusy, horder, htx, hrx, populate_withPort, pushBatch_withPort, captureBatch_withPort]
  split
  · repeat' split
    all_goals rfl
  · split <;> rfl
  · split <;> rfl

/-- A stage built on an exchange commutes with a change of the port if what it does with the samples does. -/
theorem onExchange_withPort {k : State → List Word → Host.Outcome State Fault Refusal}
    (hk : ∀ t xs, k (t.withPort p) xs = mapNext (·.withPort p) (k t xs)) (x : Exchanged) :
    onExchange (x.mapState (·.withPort p)) k = mapNext (·.withPort p) (onExchange x k) := by
  cases x with
  | done t xs => exact hk t xs
  | _ => rfl

theorem sendHeader_withPort (r : Bool) (hdr : Byte) :
    sendHeader r hdr (s.withPort p) = mapNext (·.withPort p) (sendHeader r hdr s) := by
  unfold sendHeader
  rw [← onExchange_withPort, ← exchange_withPort]
  · rfl
  · intro t xs; split <;> rfl

theorem awaitAck_withPort (r : Bool) : awaitAck r (s.withPort p) = mapNext (·.withPort p) (awaitAck r s) := by
  unfold awaitAck
  cases hh : s.hresp with
  | none => simp [State.withPort, hh, validOr, mapNext]
  | some h =>
    simp only [State.withPort, hh, validOr]
    split <;> rfl

theorem sendReadData_withPort : sendReadData (s.withPort p) = mapNext (·.withPort p) (sendReadData s) := by
  unfold sendReadData
  rw [exchange_withPort, onExchange_withPort]
  intro t xs
  split
  · split <;> rfl
  · rfl

theorem sendWriteData_withPort : sendWriteData (s.withPort p) = mapNext (·.withPort p) (sendWriteData s) := by
  have hd : (s.withPort p).readWdata = s.readWdata := State.readWdata_congr rfl rfl
  unfold sendWriteData
  rw [hd]
  split
  · rfl
  · rw [exchange_withPort, onExchange_withPort]
    intro t xs; rfl

theorem sendIdle_withPort : sendIdle (s.withPort p) = mapNext (·.withPort p) (sendIdle s) := by
  unfold sendIdle
  rw [exchange_withPort, onExchange_withPort]
  intro t xs
  simp only [State.withPort]
  split <;> rfl

theorem sendSequence_withPort : sendSequence (s.withPort p) = mapNext (·.withPort p) (sendSequence s) := by
  have hs : (s.withPort p).seq = s.seq := rfl
  have hi : (s.withPort p).seqIdx = s.seqIdx := rfl
  unfold sendSequence
  rw [hs, hi]
  split
  · rfl
  · rfl
  · split
    · rfl
    · rw [exchange_withPort, onExchange_withPort]
      intro t xs
      split <;> rfl

theorem commandStage_withPort (c : Byte) : commandStage c (s.withPort p) = mapNext (·.withPort p) (commandStage c s) := by
  have hs : (s.withPort p).st = s.st := rfl
  unfold commandStage
  split
  · unfold transferStage
    rw [hs]
    split
    case h_2 => exact sendHeader_withPort s p _ _
    case h_3 => exact awaitAck_withPort s p _
    case h_4 => split; exacts [sendReadData_withPort s p, rfl]
    case h_5 => split; exacts [rfl, sendWriteData_withPort s p]
    case h_6 => exact sendIdle_withPort s p
    all_goals rfl
  · unfold sequenceStage
    rw [hs]
    split
    case h_2 => exact sendSequence_withPort s p
    all_goals rfl

theorem progressMove_withPort (hp : s.inProgress = true) :
    progressMove (s.withPort p) = mapNext (·.withPort p) (progressMove s) := by
  have hc : currentInstr (s.withPort p) = currentInstr s := rfl
  unfold progressMove
  rw [hc]
  cases hi : currentInstr s with
  | error f => rfl
  | ok i =>
    obtain ⟨c, hcmd, hx⟩ := exec_currentInstr hp hi
    obtain ⟨c', hcmd', hx'⟩ := exec_currentInstr (s := s.withPort p) hp (hc.trans hi)
    obtain rfl : c = c' := Option.some.inj (hcmd.symm.trans hcmd')
    simp only [hx, hx', commandStage_withPort]

end

/-- After an engine move nothing is left of the port that the move saw. -/
theorem mapNext_afterMove_withPort (p : PortIn) (o : Host.Outcome State Fault Refusal) :
    mapNext afterMove (mapNext (·.withPort p) o) = mapNext afterMove o := by
  cases o <;> rfl

/-- Outside READY the engine's move sees of the port only a take, a read and a teardown. -/
theorem stateMove_withPort {s : State} {p : PortIn} (hs : s.st ≠ .ready) (ht : p.rspTake = s.port.rspTake) :
    stateMove (s.withPort p) = mapNext (·.withPort p) (stateMove s) := by
  rcases s.st_cases with hr | hr | hp
  · contradiction
  · have hr' : (s.withPort p).st = .done ∨ (s.withPort p).st = .faulted := hr
    have ht' : (s.withPort p).port.rspTake = s.port.rspTake := ht
    rw [stateMove_response hr, stateMove_response hr', responseMove_eq, responseMove_eq, ht']
    split <;> rfl
  · have hp' : (s.withPort p).inProgress = true := hp
    rw [stateMove_inProgress hp, stateMove_inProgress hp', progressMove_withPort s p hp]

theorem engineMove_withPort {s : State} {p : PortIn} (hs : s.st ≠ .ready) (ht : p.rspTake = s.port.rspTake)
    (hr : p.read = s.port.read) (hd : p.teardown = s.port.teardown) :
    mapNext afterMove (engineMove (s.withPort p)) = mapNext afterMove (engineMove s) := by
  have hread : readFault (s.withPort p) = readFault s := by
    unfold readFault
    rw [show (s.withPort p).port.read = s.port.read from hr]
    rfl
  have hdown : (s.withPort p).port.teardown = s.port.teardown := hd
  have hprog : (s.withPort p).inProgress = s.inProgress := rfl
  unfold engineMove
  rw [hread, hdown, hprog]
  split
  · rfl
  · split
    · split <;> rfl
    · rw [stateMove_withPort hs ht, mapNext_afterMove_withPort]

/-- Settles O29: the change of `cmd_valid`, `cmd` and `wdata` reaches no part of the move that a state but READY makes. -/
theorem offersOutsideReadyHaveNoEffect : Obligations.OffersOutsideReadyHaveNoEffect := by
  intro s v c d hs hp
  have hmove := engineMove_withPort (p := { s.port with cmdValid := v, cmd := c, wdata := d }) hs rfl rfl rfl
  have hp' : (s.withPort { s.port with cmdValid := v, cmd := c, wdata := d }).peripheralMoves = false := hp
  change step (s.withPort _) = step s
  simp only [step, stepOnce, hp, hp', Bool.false_eq_true, if_false, hmove]
  rfl

end Sys2Proof.Machine
end

section
/-! ## Acceptance, the response port and the reset state -/

namespace Sys2Proof.Machine

/-- The bytes of the TRANSFERs (30_encoding.md rule R62): the address field over the request's own bits. -/
theorem transferByte_eq_base (ap r : Bool) (a : BitVec 2) :
    transferByte ap r a = transferByte ap r 0 ||| (a.setWidth 8 <<< 3) := by
  revert ap r a; decide

theorem usesWdata_transferByte (ap r : Bool) (a : BitVec 2) : usesWdata (transferByte ap r a) = !r := by
  simp [usesWdata, isTransfer_transferByte, (fields_transferByte ap r a).2.1]

theorem runTransfer_ready {s : State} (hs : s.st = .ready) (ap r : Bool) (a : BitVec 2) (d : Word) :
    runTransfer ap r a d s = .next (s.acceptTransfer (transferByte ap r a) d) := if_pos hs

theorem runSequence_ready {s : State} (hs : s.st = .ready) (c : Byte) (batches : List (List Frame)) (d : Word) :
    runSequence c batches d s = .next (s.acceptSequence c d batches) := if_pos hs

/-- The `wdata` latched with a TRANSFER reads after a write, and faults after a read (10_state.md rule R12). -/
theorem readWdata_acceptTransfer (s : State) (ap r : Bool) (a : BitVec 2) (d : Word) :
    (s.acceptTransfer (transferByte ap r a) d).readWdata = if r then .error (.invalidRegister .wdata) else .ok d := by
  have h : (s.acceptTransfer (transferByte ap r a) d).readWdata = (s.accept (transferByte ap r a) d).readWdata := rfl
  rw [h, State.readWdata_accept, usesWdata_transferByte]
  cases r <;> rfl

/-- Settles O24: each TRANSFER is `runTransfer` in READY, its byte is R62's, and its `wdata` is valid only for a write. -/
theorem transfersAreAccepted : Obligations.TransfersAreAccepted := by
  intro s a d hs accepted
  have state : ∀ ap r : Bool, accepted (transferByte ap r 0) = s.acceptTransfer (transferByte ap r a) d := fun ap r => by
    rw [transferByte_eq_base ap r a]; rfl
  have runs : ∀ ap r : Bool, runTransfer ap r a d s = .next (accepted (transferByte ap r 0)) := fun ap r => by
    rw [state, runTransfer_ready hs]
  have reads : ∀ ap r : Bool, (accepted (transferByte ap r 0)).readWdata =
      if r then .error (.invalidRegister .wdata) else .ok d := fun ap r => by
    rw [state, readWdata_acceptTransfer]
  exact ⟨runs false true, runs false false, runs true true, runs true false,
    reads false false, reads true false, reads false true, reads true true⟩

/-- Settles O25: each line-control command is `runSequence` in READY, and none of the three bytes uses `wdata`. -/
theorem lineControlIsAccepted : Obligations.LineControlIsAccepted := by
  intro s d hs lr sw accepted
  have noWdata : ∀ c ∈ [0x20#8, 0x40#8, 0x60#8], usesWdata c = false := by decide
  refine ⟨runSequence_ready hs .., runSequence_ready hs .., runSequence_ready hs .., fun c hc b => ?_⟩
  have h : (accepted c b).readWdata = (s.accept c d).readWdata := rfl
  rw [h, State.readWdata_accept, noWdata c hc]
  rfl

theorem State.inProgress_response {s : State} (h : s.st = .done ∨ s.st = .faulted) : s.inProgress = false := by
  rcases h with h | h <;> simp [State.inProgress, State.cmdReady, State.rspValid, h]

/-- Settles O30: with no command in progress a read is the register's value or its fault, register by register. -/
theorem responsePortReadsOrFaults : Obligations.ResponsePortReadsOrFaults := by
  intro s hs
  have hp := State.inProgress_response hs
  refine ⟨?_, ?_, ?_, ?_⟩ <;> simp only [State.rspRead, hp, Bool.false_eq_true, if_false, validOr]
  · cases s.rdata <;> rfl
  · cases s.ack <;> rfl
  · cases s.outcome <;> rfl
  · cases s.rpar <;> rfl

/-- Settles O45, by evaluation of the one state it speaks of. -/
theorem resetIsTheInitialisedState : Obligations.ResetIsTheInitialisedState := by
  unfold Obligations.ResetIsTheInitialisedState
  decide

theorem inv_reset : Inv State.reset where
  slots_four := rfl
  count_le := by decide
  txq_le := by decide
  rxq_le := by decide
  txq_frames := by decide
  shifter_frame := by simp [State.reset]
  lsb := rfl
  cmd_with_wdata := rfl
  stage := .inl ⟨rfl, rfl, rfl, rfl, rfl⟩
  in_exchange := .inl rfl

/-- Settles O50: nothing is latched, and the peripheral is empty. -/
theorem resetMeetsTheInvariant : Obligations.ResetMeetsTheInvariant :=
  ⟨inv_reset, inv_reset, fun _ => ⟨rfl, rfl, rfl⟩, by decide, by decide⟩

end Sys2Proof.Machine
end

section
/-! ## The invariant

The invariant in parts: the transport's, the registers' (which the engine's stages read), and the exchange in progress. Then one
lemma for each stage that it answers a next state which meets the invariant again; both the preservation of the invariant and the
block's progress follow from these. -/

namespace Sys2Proof.Machine

theorem Inv.transportOk {s : State} (h : Inv s) : TransportOk s :=
  ⟨h.slots_four, h.count_le, h.txq_le, h.rxq_le, h.txq_frames, h.shifter_frame, h.lsb⟩

/-- The parts of the state that `TransportOk` speaks of. -/
def State.transport (s : State) : List Slot × Nat × List Frame × List Word × Option Shifter × BitOrder :=
  (s.slots, s.count, s.txq, s.rxq, s.shifter, s.bitOrder)

theorem TransportOk.congr {s t : State} (h : TransportOk s) (e : t.transport = s.transport) : TransportOk t := by
  simp only [State.transport, Prod.mk.injEq] at e
  obtain ⟨hslots, hcount, htxq, hrxq, hshifter, horder⟩ := e
  exact ⟨hslots ▸ h.slots_four, hcount ▸ h.count_le, htxq ▸ h.txq_le, hrxq ▸ h.rxq_le, htxq ▸ h.txq_frames,
    hshifter ▸ h.shifter_frame, horder ▸ h.lsb⟩

theorem Inv.of_parts {s : State} (ht : TransportOk s) (hw : s.cmd.isSome = s.wdata.isSome) (hs : StageOk s) (hx : ExchangeOk s) :
    Inv s :=
  ⟨ht.slots_four, ht.count_le, ht.txq_le, ht.rxq_le, ht.txq_frames, ht.shifter_frame, ht.lsb, hw, hs, hx⟩

/-- A command's data is latched with it. -/
theorem Inv.wdata_some {s : State} (h : Inv s) {c : Byte} (hc : s.cmd = some c) : ∃ d, s.wdata = some d := by
  have hw := h.cmd_with_wdata
  rw [hc] at hw
  exact Option.isSome_iff_exists.1 hw.symm

/-- A state with no batch to exchange is in no exchange. -/
theorem Inv.phase_call {s : State} (h : Inv s) (hd : s.dueBatch = none) : s.phase = .call := by
  rcases h.in_exchange with hp | ⟨b, hb, -⟩
  · exact hp
  · simp [hd] at hb

/-- The batch due is the one under way. -/
theorem Inv.underway {s : State} (h : Inv s) {b : List Frame} (hd : s.dueBatch = some b) : s.phase = .call ∨ Underway b s := by
  rcases h.in_exchange with hp | ⟨b', hb, -, ⟨hcount, hout⟩, hheld⟩
  · exact .inl hp
  · rw [hd, Option.some.injEq] at hb
    subst hb
    exact .inr ⟨hcount, hout, hheld⟩

theorem dueBatch_sendHeader {s : State} {c : Byte} (hs : s.st = .sendHeader) (hc : s.cmd = some c) :
    s.dueBatch = some [headerFrame (fieldRnW c) (headerOfCommand c)] := by
  simp [State.dueBatch, hs, hc]

theorem dueBatch_sendReadData {s : State} (hs : s.st = .sendReadData) : s.dueBatch = some readFillFrames := by
  simp [State.dueBatch, hs]

theorem dueBatch_sendWriteData {s : State} {d : Word} (hs : s.st = .sendWriteData) (hd : s.readWdata = .ok d) :
    s.dueBatch = some (writeFrames d) := by
  simp [State.dueBatch, hs, hd, Except.toOption]

theorem dueBatch_sendIdle {s : State} (hs : s.st = .sendIdle) : s.dueBatch = some [idleFrame] := by
  simp [State.dueBatch, hs]

theorem dueBatch_sendSequence {s : State} {batches : List (List Frame)} {k : Nat} (hs : s.st = .sendSequence)
    (hq : s.seq = some batches) (hk : s.seqIdx = some k) : s.dueBatch = batches[k]? := by
  simp [State.dueBatch, hs, hq, hk]

theorem dueBatch_eq_none {s : State} (h : s.st = .ready ∨ s.st = .awaitAck ∨ s.st = .done ∨ s.st = .faulted) :
    s.dueBatch = none := by
  rcases h with h | h | h | h <;> simp [State.dueBatch, h]

/-! ### The batches are ones an exchange takes -/

theorem goodBatch_header (r : Bool) (h : Byte) : GoodBatch [headerFrame r h] :=
  ⟨by simp, by simp [fifoDepth], by cases r <;> simp [headerFrame] <;> decide⟩

theorem goodBatch_readFill : GoodBatch readFillFrames := ⟨by decide, by decide, by decide⟩

theorem goodBatch_write (d : Word) : GoodBatch (writeFrames d) :=
  ⟨by simp [writeFrames], by simp [writeFrames, fifoDepth], by simp [writeFrames]; decide⟩

theorem goodBatch_idle : GoodBatch [idleFrame] := ⟨by decide, by decide, by decide⟩

theorem goodBatch_sequence (c : Byte) : ∀ b ∈ sequenceOf c, GoodBatch b := by
  have reset : GoodBatch lineResetBatch := ⟨by decide, by decide, by decide⟩
  have switch : GoodBatch switchBatch := ⟨by decide, by decide, by decide⟩
  unfold sequenceOf
  split
  · simpa [lineResetSeq] using reset
  · split
    · simpa [switchSeq] using switch
    · simp [connectSeq, connectRepeat, reset, switch]

/-! ### The registers of a stage -/

/-- `OnlyTransport` with the six parts as variables, so that `t` can be replaced by the update of `s`. -/
theorem OnlyTransport.exists {s t : State} (h : OnlyTransport s t) : ∃ slots count phase txq rxq trace,
    t = { s with slots := slots, count := count, phase := phase, txq := txq, rxq := rxq, trace := trace } :=
  ⟨_, _, _, _, _, _, h⟩

/-- SEND_HEADER has written the header it sends. -/
def HeaderWritten (s : State) : Prop := s.st = .sendHeader → ∃ c, s.cmd = some c ∧ s.hdr = some (headerOfCommand c)

/-- What holds of the registers in an engine state does not look at the transport, but that SEND_HEADER's exchange needs its header. -/
theorem StageOk.onlyTransport {s t : State} (h : StageOk s) (ht : OnlyTransport s t) (hh : HeaderWritten s) : StageOk t := by
  obtain ⟨slots, count, phase, txq, rxq, trace, rfl⟩ := ht.exists
  unfold StageOk at h ⊢
  cases hs : s.st <;> simp only [hs] at h ⊢
  case sendHeader =>
    obtain ⟨c, hc, ht, hn, -⟩ := h
    obtain ⟨c', hc', hh⟩ := hh hs
    obtain rfl : c = c' := Option.some.inj (hc.symm.trans hc')
    exact ⟨c, hc, ht, hn, fun _ => hh⟩
  all_goals exact h

theorem dueBatch_onlyTransport {s t : State} (ht : OnlyTransport s t) : t.dueBatch = s.dueBatch := by
  obtain ⟨slots, count, phase, txq, rxq, trace, rfl⟩ := ht.exists
  rfl

theorem endedResults_transfer {c : Byte} (h : isTransfer c = true) (s : State) :
    EndedResults c s ↔ TransferResults c s ∨ CapacityResults c s := by
  simp [EndedResults, not_reserved_of_isTransfer h, h]

theorem endedResults_lineControl {c : Byte} (h : isLineControl c = true) (s : State) :
    EndedResults c s ↔ (s.outcome = some okCode ∨ s.outcome = some AbortCode.transportCapacity.code) ∧
      s.ack = none ∧ s.rdata = none ∧ s.rpar = none := by
  simp [EndedResults, lineControl_excludes h]

theorem endedResults_reserved {c : Byte} (h : reservedCommand c = true) (s : State) :
    EndedResults c s ↔ s.outcome = some AbortCode.badCommand.code ∧ s.ack = none ∧ s.rdata = none ∧ s.rpar = none := by
  simp [EndedResults, h]

/-- A capacity error with no data received leaves no data (10_state.md rule R19). -/
theorem capacityResults_of_no_data {c : Byte} {s : State} (hd : s.rdata = none) (hp : s.rpar = none) :
    CapacityResults c (s.abort .transportCapacity) :=
  ⟨rfl, by simp [hd, hp], fun h => absurd hd h, fun _ => hd⟩

/-- A capacity error after the ACK phase leaves the ACK's and the data phase's results (10_state.md rule R19). -/
theorem capacityResults_of_transferResults {c : Byte} {s : State} (h : TransferResults c s) :
    CapacityResults c (s.abort .transportCapacity) := by
  obtain ⟨a, o, ha, -, ⟨-, -, hd, hp⟩ | ⟨-, -, -, hd, hp⟩ | ⟨hok, hr, w, p, hd, hp, -⟩⟩ := h
  · exact capacityResults_of_no_data hd hp
  · exact capacityResults_of_no_data hd hp
  · exact ⟨rfl, by simp [hd, hp], fun _ => ⟨a, ha, hok⟩, fun hw => by simp [hr] at hw⟩

/-- A capacity error in any sending state ends the command with the results that R19 names. -/
theorem StageOk.abort_capacity {s : State} (h : StageOk s) {b : List Frame} (hb : s.dueBatch = some b) :
    StageOk (s.abort .transportCapacity) := by
  have ended : ∀ c, s.cmd = some c → EndedResults c (s.abort .transportCapacity) → StageOk (s.abort .transportCapacity) :=
    fun c hc he => ⟨c, AbortCode.transportCapacity.code, hc, he, rfl, by decide⟩
  have transfer : ∀ c, s.cmd = some c → isTransfer c = true → CapacityResults c (s.abort .transportCapacity) →
      StageOk (s.abort .transportCapacity) :=
    fun c hc ht hr => ended c hc ((endedResults_transfer ht _).2 (.inr hr))
  unfold StageOk at h
  split at h <;> rename_i hs
  case h_2 =>
    obtain ⟨c, hc, ht, ⟨-, hd, hp, -⟩, -⟩ := h
    exact transfer c hc ht (capacityResults_of_no_data hd hp)
  case h_4 =>
    obtain ⟨c, a, hc, ht, -, -, -, hd, hp, -⟩ := h
    exact transfer c hc ht (capacityResults_of_no_data hd hp)
  case h_5 =>
    obtain ⟨c, a, hc, ht, -, -, -, hd, hp, -⟩ := h
    exact transfer c hc ht (capacityResults_of_no_data hd hp)
  case h_6 =>
    obtain ⟨c, hc, ht, hr⟩ := h
    exact transfer c hc ht (capacityResults_of_transferResults hr)
  case h_7 =>
    obtain ⟨c, k, hc, hl, ⟨ha, hd, hp, -⟩, -⟩ := h
    exact ended c hc ((endedResults_lineControl hl _).2 ⟨.inr rfl, ha, hd, hp⟩)
  all_goals rw [dueBatch_eq_none (by simp [hs])] at hb; simp at hb

/-! ### An exchange keeps the invariant -/

theorem onlyTransport_populate (s : State) (b : List Frame) : OnlyTransport s (s.populate b) := by
  unfold OnlyTransport State.populate
  split <;> rfl

/-- A capacity error keeps the invariant. -/
theorem Inv.capacity {s : State} (h : Inv s) {b : List Frame} (hd : s.dueBatch = some b) (hb : GoodBatch b)
    (hp : s.phase = .call) : Inv ((s.populate b).abort .transportCapacity) := by
  have only : OnlyTransport (s.abort .transportCapacity) ((s.populate b).abort .transportCapacity) := by
    rw [onlyTransport_populate s b]; rfl
  refine .of_parts ((h.transportOk.populate hb.fits).congr rfl) (by simpa using h.cmd_with_wdata) ?_ (.inl (by simpa using hp))
  exact (h.stage.abort_capacity hd).onlyTransport only (by simp [HeaderWritten, AbortCode.next])

/-- An exchange that waits keeps the invariant. -/
theorem Inv.pending {s t : State} (h : Inv s) {b : List Frame} (hd : s.dueBatch = some b) (hne : b ≠ []) (hh : HeaderWritten s)
    (ht : OnlyTransport s t) (hok : TransportOk t) (hu : Underway b t) : Inv t := by
  refine .of_parts hok ?_ (h.stage.onlyTransport ht hh) (.inr ⟨b, ?_, hne, ⟨hu.count, hu.out⟩, hu.held⟩)
  · rw [ht]; exact h.cmd_with_wdata
  · rw [dueBatch_onlyTransport ht, hd]

/-- An engine stage that exchanges the batch due answers a next state and keeps the invariant, if what it does with one sample
for each frame does. -/
theorem Inv.onExchange {s : State} (h : Inv s) {b : List Frame} (hd : s.dueBatch = some b) (hb : GoodBatch b)
    (hh : HeaderWritten s) {k : State → List Word → Host.Outcome State Fault Refusal}
    (hk : ∀ t xs, OnlyTransport s t → TransportOk t → t.phase = .call → xs.length = b.length → ∃ u, k t xs = .next u ∧ Inv u) :
    ∃ u, onExchange (exchange b s) k = .next u ∧ Inv u := by
  have spec := exchange_spec hb h.transportOk (h.underway hd)
  cases hx : exchange b s with
  | refused r => rw [hx] at spec; exact spec.elim
  | fault f => rw [hx] at spec; exact spec.elim
  | capacity t =>
    rw [hx] at spec
    obtain ⟨hp, rfl, -⟩ := spec
    exact ⟨_, rfl, h.capacity hd hb hp⟩
  | pending t =>
    rw [hx] at spec
    obtain ⟨hok, -, hu, -⟩ := spec
    exact ⟨t, rfl, h.pending hd hb.nonempty hh (exchange_only (by rw [hx]; rfl)) hok hu⟩
  | done t xs =>
    rw [hx] at spec
    obtain ⟨hok, hp, -, -, -, -, -, hlen, rfl⟩ := spec
    exact hk t _ (exchange_only (by rw [hx]; rfl)) hok hp (by simpa using hlen)

/-- Between exchanges the invariant is a matter of the transport and the registers. -/
theorem Inv.of_call {s : State} (ht : TransportOk s) (hp : s.phase = .call) {c : Byte} {d : Word} (hc : s.cmd = some c)
    (hd : s.wdata = some d) (hs : StageOk s) : Inv s :=
  .of_parts ht (by simp [hc, hd]) hs (.inl hp)

/-! ### The stages -/

theorem headerWritten_of_st {s : State} (h : s.st ≠ .sendHeader) : HeaderWritten s := fun hs => absurd hs h

theorem Inv.sendHeader {s : State} (h : Inv s) (hs : s.st = .sendHeader) {c : Byte} (hc : s.cmd = some c) :
    ∃ u, sendHeader (fieldRnW c) (headerOfCommand c) s = .next u ∧ Inv u := by
  obtain ⟨d, hd⟩ := h.wdata_some hc
  have hstage := h.stage
  simp only [StageOk, hs] at hstage
  obtain ⟨c', hc', ht, hn, -⟩ := hstage
  obtain rfl : c = c' := Option.some.inj (hc.symm.trans hc')
  have sending : Inv { s with hdr := some (headerOfCommand c) } := by
    refine .of_parts (h.transportOk.congr rfl) h.cmd_with_wdata ?_ h.in_exchange
    simp only [StageOk, hs]
    exact ⟨c, hc, ht, hn, fun _ => rfl⟩
  refine sending.onExchange (dueBatch_sendHeader hs hc) (goodBatch_header _ _) (fun _ => ⟨c, hc, rfl⟩)
    fun t xs hon hok hp hlen => ?_
  obtain ⟨x, rfl⟩ := List.length_eq_one_iff.1 hlen
  obtain ⟨slots, count, phase, txq, rxq, trace, rfl⟩ := hon.exists
  exact ⟨_, rfl, .of_call (hok.congr rfl) hp hc hd ⟨c, hc, ht, hn, rfl, by simp⟩⟩

theorem Inv.awaitAck {s : State} (h : Inv s) (hs : s.st = .awaitAck) {c : Byte} (hc : s.cmd = some c) :
    ∃ u, awaitAck (fieldRnW c) s = .next u ∧ Inv u := by
  obtain ⟨d, hd⟩ := h.wdata_some hc
  have hp := h.phase_call (dueBatch_eq_none (by simp [hs]))
  have hstage := h.stage
  simp only [StageOk, hs] at hstage
  obtain ⟨c', hc', ht, ⟨-, hrd, hrp, ho⟩, -, hresp⟩ := hstage
  obtain rfl : c = c' := Option.some.inj (hc.symm.trans hc')
  obtain ⟨hr, hhr⟩ := Option.ne_none_iff_exists'.1 hresp
  have refused : ∀ e : AbortCode, e.next = .sendIdle → decodeAck (ackField hr) ≠ .ok → e.code = ackOutcome (ackField hr) →
      Inv ({ s with ack := some (ackField hr) }.abort e) := fun e hn hne he => by
    refine .of_call (h.transportOk.congr rfl) hp hc hd ?_
    simp only [StageOk, State.abort_st, hn]
    exact ⟨c, hc, ht, ackField hr, e.code, rfl, rfl, .inl ⟨hne, he, hrd, hrp⟩⟩
  have hread : validOr .hresp s.hresp = .ok hr := by rw [hhr]; rfl
  simp only [Machine.awaitAck, hread]
  cases hk : decodeAck (ackField hr) with
  | ok =>
    refine ⟨_, rfl, .of_call (h.transportOk.congr rfl) hp hc hd ?_⟩
    cases hw : fieldRnW c <;> exact ⟨c, ackField hr, hc, ht, hw, rfl, hk, hrd, hrp, ho⟩
  | wait => exact ⟨_, rfl, refused .wait rfl (by simp [hk]) (by simp [ackOutcome, hk])⟩
  | fault => exact ⟨_, rfl, refused .fault rfl (by simp [hk]) (by simp [ackOutcome, hk])⟩
  | unknown => exact ⟨_, rfl, refused .unknownAck rfl (by simp [hk]) (by simp [ackOutcome, hk])⟩

theorem Inv.sendReadData {s : State} (h : Inv s) (hs : s.st = .sendReadData) : ∃ u, sendReadData s = .next u ∧ Inv u := by
  have hstage := h.stage
  simp only [StageOk, hs] at hstage
  obtain ⟨c, a, hc, ht, hw, ha, hk, -, -, -⟩ := hstage
  obtain ⟨d, hd⟩ := h.wdata_some hc
  refine h.onExchange (dueBatch_sendReadData hs) goodBatch_readFill (headerWritten_of_st (by simp [hs]))
    fun t xs hon hok hp hlen => ?_
  obtain ⟨s1, s2, rfl⟩ := List.length_eq_two.1 hlen
  obtain ⟨slots, count, phase, txq, rxq, trace, rfl⟩ := hon.exists
  have received : ∀ o, (o = if parityOk (readWord s1 s2) (readParity s2) then okCode else AbortCode.parityMismatch.code) →
      TransferResults c { s with rdata := some (readWord s1 s2), rpar := some (readParity s2), outcome := some o } :=
    fun o ho => ⟨a, o, ha, rfl, .inr (.inr ⟨hk, hw, _, _, rfl, rfl, ho⟩)⟩
  dsimp only
  split
  · rename_i hpar
    exact ⟨_, rfl, .of_call (hok.congr rfl) hp hc hd ⟨c, hc, ht, received okCode (by simp [hpar])⟩⟩
  · rename_i hpar
    exact ⟨_, rfl, .of_call (hok.congr rfl) hp hc hd ⟨c, hc, ht, received AbortCode.parityMismatch.code (by simp [hpar])⟩⟩

theorem Inv.sendWriteData {s : State} (h : Inv s) (hs : s.st = .sendWriteData) : ∃ u, sendWriteData s = .next u ∧ Inv u := by
  have hstage := h.stage
  simp only [StageOk, hs] at hstage
  obtain ⟨c, a, hc, ht, hw, ha, hk, hrd, hrp, -⟩ := hstage
  obtain ⟨d, hd⟩ := h.wdata_some hc
  have hread : s.readWdata = .ok d := (s.readWdata_ok_iff d).2 ⟨hd, c, hc, (usesWdata_iff c).2 ⟨ht, hw⟩⟩
  simp only [Machine.sendWriteData, hread]
  refine h.onExchange (dueBatch_sendWriteData hs hread) (goodBatch_write d) (headerWritten_of_st (by simp [hs]))
    fun t xs hon hok hp _ => ?_
  obtain ⟨slots, count, phase, txq, rxq, trace, rfl⟩ := hon.exists
  exact ⟨_, rfl, .of_call (hok.congr rfl) hp hc hd
    ⟨c, hc, ht, a, okCode, ha, rfl, .inr (.inl ⟨hk, hw, rfl, hrd, hrp⟩)⟩⟩

theorem Inv.sendIdle {s : State} (h : Inv s) (hs : s.st = .sendIdle) : ∃ u, sendIdle s = .next u ∧ Inv u := by
  have hstage := h.stage
  simp only [StageOk, hs] at hstage
  obtain ⟨c, hc, ht, hres⟩ := hstage
  obtain ⟨a, o, -, ho, -⟩ := id hres
  obtain ⟨d, hd⟩ := h.wdata_some hc
  refine h.onExchange (dueBatch_sendIdle hs) goodBatch_idle (headerWritten_of_st (by simp [hs])) fun t xs hon hok hp _ => ?_
  obtain ⟨slots, count, phase, txq, rxq, trace, rfl⟩ := hon.exists
  have ended : EndedResults c s := (endedResults_transfer ht s).2 (.inl hres)
  have hread : validOr .outcome s.outcome = .ok o := by rw [ho]; rfl
  simp only [hread]
  refine ⟨_, rfl, .of_call (hok.congr rfl) hp hc hd ?_⟩
  by_cases hcode : o = okCode
  · simp only [StageOk, hcode, if_true]
    exact ⟨c, hc, ended, hcode ▸ ho⟩
  · simp only [StageOk, hcode, if_false]
    exact ⟨c, o, hc, ended, ho, hcode⟩

theorem Inv.sendSequence {s : State} (h : Inv s) (hs : s.st = .sendSequence) : ∃ u, sendSequence s = .next u ∧ Inv u := by
  have hstage := h.stage
  simp only [StageOk, hs] at hstage
  obtain ⟨c, k, hc, hl, ⟨ha, hrd, hrp, ho⟩, hq, hi, hk⟩ := hstage
  obtain ⟨d, hd⟩ := h.wdata_some hc
  have hb : (sequenceOf c)[k]? = some (sequenceOf c)[k] := List.getElem?_eq_getElem hk
  simp only [Machine.sendSequence, hq, hi, hb]
  refine h.onExchange ((dueBatch_sendSequence hs hq hi).trans hb) (goodBatch_sequence c _ (List.getElem_mem hk))
    (headerWritten_of_st (by simp [hs])) fun t xs hon hok hp _ => ?_
  obtain ⟨slots, count, phase, txq, rxq, trace, rfl⟩ := hon.exists
  dsimp only
  split
  · exact ⟨_, rfl, .of_call (hok.congr rfl) hp hc hd
      ⟨c, hc, (endedResults_lineControl hl _).2 ⟨.inl rfl, ha, hrd, hrp⟩, rfl⟩⟩
  · rename_i hlast
    refine ⟨_, rfl, .of_call (hok.congr rfl) hp hc hd ?_⟩
    simp only [StageOk, hs]
    exact ⟨c, k + 1, hc, hl, ⟨ha, hrd, hrp, ho⟩, hq, rfl, by omega⟩

/-! ### The engine's moves -/

/-- What kind of command is in progress. -/
theorem StageOk.command_inProgress {s : State} (h : StageOk s) (hp : s.inProgress = true) :
    ∃ c, s.cmd = some c ∧ ((isTransfer c = true ∧ s.st ≠ .sendSequence ∧ (s.st = .sendReadData → fieldRnW c = true) ∧
        (s.st = .sendWriteData → fieldRnW c = false)) ∨ (isLineControl c = true ∧ s.st = .sendSequence)) := by
  unfold StageOk at h
  split at h <;> rename_i hs
  case h_2 => obtain ⟨c, hc, ht, -⟩ := h; exact ⟨c, hc, .inl ⟨ht, by simp [hs]⟩⟩
  case h_3 => obtain ⟨c, hc, ht, -⟩ := h; exact ⟨c, hc, .inl ⟨ht, by simp [hs]⟩⟩
  case h_4 => obtain ⟨c, a, hc, ht, hw, -⟩ := h; exact ⟨c, hc, .inl ⟨ht, by simp [hs, hw]⟩⟩
  case h_5 => obtain ⟨c, a, hc, ht, hw, -⟩ := h; exact ⟨c, hc, .inl ⟨ht, by simp [hs, hw]⟩⟩
  case h_6 => obtain ⟨c, hc, ht, -⟩ := h; exact ⟨c, hc, .inl ⟨ht, by simp [hs]⟩⟩
  case h_7 => obtain ⟨c, k, hc, hl, -⟩ := h; exact ⟨c, hc, .inr ⟨hl, hs⟩⟩
  all_goals simp [s.inProgress_iff, hs] at hp

/-- The stage of the command in progress answers a next state and keeps the invariant. -/
theorem Inv.commandStage {s : State} (h : Inv s) (hp : s.inProgress = true) {c : Byte} (hc : s.cmd = some c) :
    ∃ u, commandStage c s = .next u ∧ Inv u := by
  obtain ⟨c', hc', hkind⟩ := h.stage.command_inProgress hp
  obtain rfl : c = c' := Option.some.inj (hc.symm.trans hc')
  rcases hkind with ⟨ht, hns, hr, hw⟩ | ⟨hl, hs⟩
  · simp only [Machine.commandStage, ht, if_true, transferStage]
    cases hs : s.st with
    | sendHeader => exact h.sendHeader hs hc
    | awaitAck => exact h.awaitAck hs hc
    | sendReadData => simpa only [hr hs, if_true] using h.sendReadData hs
    | sendWriteData => simpa only [hw hs, Bool.false_eq_true, if_false] using h.sendWriteData hs
    | sendIdle => exact h.sendIdle hs
    | sendSequence => exact absurd hs hns
    | _ => exact ⟨s, rfl, h⟩
  · simpa only [Machine.commandStage, (lineControl_excludes hl).2, Bool.false_eq_true, if_false, sequenceStage, hs]
      using h.sendSequence hs

/-- Under the invariant the engine in mid-command is at an instruction. -/
theorem Inv.currentInstr_ok {s : State} (h : Inv s) (hp : s.inProgress = true) : ∃ i, currentInstr s = .ok i := by
  obtain ⟨c, hc, hkind⟩ := h.stage.command_inProgress hp
  obtain ⟨d, hd⟩ := h.wdata_some hc
  by_cases hs : s.st = .sendHeader
  · rcases hkind with ⟨ht, -⟩ | ⟨-, hs'⟩
    · exact ⟨_, (currentInstr_sendHeader hs).2
        ⟨_, by simp only [State.headerDue, hs, hc, ht, if_true], decodeHeader_headerOfCommand c⟩⟩
    · simp [hs] at hs'
  · have hdata : ∃ d, s.requestData c = .ok d := by
      unfold State.requestData
      split
      · rename_i hu; exact ⟨d, (s.readWdata_ok_iff d).2 ⟨hd, c, hc, hu⟩⟩
      · exact ⟨0, rfl⟩
    obtain ⟨d', hd'⟩ := hdata
    have hdecode : ∃ i, decodeCommand c d' = .ok i := by
      rcases hkind with ⟨ht, -⟩ | ⟨hl, -⟩
      · exact ⟨_, decodeCommand_transfer ht d'⟩
      · exact decodeCommand_lineControl hl d'
    obtain ⟨i, hi⟩ := hdecode
    exact ⟨i, (currentInstr_latched hs).2 ⟨c, d', hc, hd', hi⟩⟩

theorem Inv.progressMove {s : State} (h : Inv s) (hp : s.inProgress = true) : ∃ u, progressMove s = .next u ∧ Inv u := by
  obtain ⟨i, hi⟩ := h.currentInstr_ok hp
  obtain ⟨c, hc, hx⟩ := exec_currentInstr hp hi
  simpa only [Machine.progressMove, hi, hx] using h.commandStage hp hc

/-- An acceptance in READY keeps the invariant. -/
theorem Inv.accepted {s : State} (h : Inv s) (hs : s.st = .ready) (c : Byte) (d : Word) : Inv (s.accepted c d) := by
  have hp := h.phase_call (dueBatch_eq_none (.inl hs))
  unfold State.accepted
  split
  · rename_i ht
    exact .of_call (h.transportOk.congr rfl) hp rfl rfl ⟨c, rfl, ht, ⟨rfl, rfl, rfl, rfl⟩, fun hn => absurd hp hn⟩
  · split
    · rename_i ht hl
      have nonempty : 0 < (sequenceOf c).length := by
        rcases isLineControl_cases hl with rfl | rfl | rfl <;> decide
      exact .of_call (h.transportOk.congr rfl) hp rfl rfl ⟨c, 0, rfl, hl, ⟨rfl, rfl, rfl, rfl⟩, rfl, rfl, nonempty⟩
    · rename_i ht hl
      have hr : reservedCommand c = true := by simpa [ht, hl] using command_kinds c
      exact .of_call (h.transportOk.congr rfl) hp rfl rfl
        ⟨c, AbortCode.badCommand.code, rfl, (endedResults_reserved hr _).2 ⟨rfl, rfl, rfl, rfl⟩, rfl, by decide⟩

/-- Taking the response keeps the invariant. -/
theorem Inv.takeResponse {s : State} (h : Inv s) (hs : s.st = .done ∨ s.st = .faulted) : Inv s.takeResponse := by
  have hp := h.phase_call (dueBatch_eq_none (by tauto))
  have ended : ∃ c, s.cmd = some c ∧ EndedResults c s := by
    have hstage := h.stage
    rcases hs with hs | hs <;> simp only [StageOk, hs] at hstage
    · obtain ⟨c, hc, he, -⟩ := hstage; exact ⟨c, hc, he⟩
    · obtain ⟨c, o, hc, he, -⟩ := hstage; exact ⟨c, hc, he⟩
  exact .of_parts (h.transportOk.congr rfl) h.cmd_with_wdata (.inr ended) (.inl hp)

/-- Under the invariant the move of the engine's state answers a next state and keeps the invariant. -/
theorem Inv.stateMove {s : State} (h : Inv s) : ∃ u, stateMove s = .next u ∧ Inv u := by
  rcases s.st_cases with hs | hs | hp
  · rw [stateMove_ready hs]
    cases hv : s.port.cmdValid
    · exact ⟨s, readyMove_no_offer hv, h⟩
    · exact ⟨_, readyMove_offer hs hv, h.accepted hs _ _⟩
  · rw [stateMove_response hs, responseMove_eq]
    refine ⟨_, rfl, ?_⟩
    split
    exacts [h.takeResponse hs, h]
  · rw [stateMove_inProgress hp]
    exact h.progressMove hp

/-! ### The peripheral's moves -/

theorem frameLenOk_iff (len : BitVec 5) : frameLenOk len = true ↔ 1 ≤ len.toNat ∧ len.toNat ≤ 24 := by
  rw [frameLenOk, Bool.and_eq_true, decide_eq_true_iff, decide_eq_true_iff]
  rfl

theorem tick_transportOk {s t : State} (h : TransportOk s) (ht : tick s = .next t) : TransportOk t := by
  rcases tick_next ht with ⟨-, -, rfl⟩ | ⟨f, rest, -, hq, hf, rfl⟩ | ⟨sh, hs, hf, hk, rfl⟩ | ⟨sh, -, -, -, hr, rfl⟩
  · exact h
  · have hlen := h.txq_le
    have hframes := h.txq_frames
    simp only [hq, List.length_cons, List.forall_mem_cons] at hlen hframes
    refine { h with txq_le := Nat.le_of_succ_le hlen, txq_frames := hframes.2, shifter_frame := ?_ }
    rintro sh ⟨⟩
    exact ⟨hf, (frameLenOk_iff _).1 hf |>.1⟩
  · refine { h with shifter_frame := ?_ }
    rintro sh' ⟨⟩
    exact ⟨hf, hk⟩
  · exact { h with rxq_le := by simpa using hr, shifter_frame := by simp }

/-- The peripheral loses no word and makes none (40_transport.md rule R71). -/
theorem tick_wordsHeld {s t : State} (ht : tick s = .next t) : t.wordsHeld = s.wordsHeld := by
  rcases tick_next ht with ⟨-, -, rfl⟩ | ⟨f, rest, hs, hq, -, rfl⟩ | ⟨sh, hs, -, -, rfl⟩ | ⟨sh, hs, -, -, -, rfl⟩
  · rfl
  · simp [State.wordsHeld, hs, hq]
  · simp [State.wordsHeld, hs, Shifter.clocked]
  · simp [State.wordsHeld, hs, Shifter.clocked]; omega

theorem Inv.tick {s t : State} (h : Inv s) (ht : tick s = .next t) : Inv t := by
  have hok := tick_transportOk h.transportOk ht
  have hheld := tick_wordsHeld ht
  rw [tick_frame ht] at hok hheld ⊢
  refine .of_parts hok h.cmd_with_wdata h.stage ?_
  rcases h.in_exchange with hp | ⟨b, hb, hne, hslots, hx⟩
  · exact .inl hp
  · exact .inr ⟨b, hb, hne, hslots, fun hp => hheld ▸ hx hp⟩

/-! ### The step -/

theorem Inv.afterMove {s : State} (h : Inv s) : Inv (afterMove s) :=
  .of_parts (h.transportOk.congr rfl) h.cmd_with_wdata h.stage h.in_exchange

theorem Inv.afterTick {s : State} (h : Inv s) : Inv (afterTick s) :=
  .of_parts (h.transportOk.congr rfl) h.cmd_with_wdata h.stage h.in_exchange

theorem Inv.tornDown {s : State} (h : Inv s) : Inv { s with tornDown := true } :=
  .of_parts (h.transportOk.congr rfl) h.cmd_with_wdata h.stage h.in_exchange

/-- Settles O51: each agent's move keeps the invariant. -/
theorem stepKeepsTheInvariant : Obligations.StepKeepsTheInvariant := by
  intro s t h hstep
  obtain ⟨-, ⟨-, u, hu, rfl⟩ | ⟨-, u, hu, rfl⟩⟩ := step_next hstep
  · exact (h.tick hu).afterTick
  · rcases engineMove_next hu with ⟨-, -, rfl⟩ | ⟨-, hu⟩
    · exact h.tornDown.afterMove
    · obtain ⟨u', hu', hi⟩ := h.stateMove
      obtain rfl : u' = u := by simpa [hu'] using hu
      exact hi.afterMove

/-- With no command in progress a read of the response port that faults names the register read (10_state.md rule R21). -/
theorem State.rspRead_error {s : State} {r : RspReg} {f : Fault} (hp : s.inProgress = false) (h : s.rspRead r = .error f) :
    f = .invalidRegister (rspRegName r) := by
  have invalid : ∀ {α β : Type} (n : RegName) (v : Option α) (g : α → β),
      (validOr n v).map g = .error f → f = .invalidRegister n := by
    intro α β n v g hv
    cases v <;> simp [validOr, Except.map] at hv
    exact hv.symm
  simp only [State.rspRead, hp, Bool.false_eq_true, if_false] at h
  cases r with
  | outcome => exact invalid _ _ _ h
  | ack => exact invalid _ _ _ h
  | rdata => exact invalid _ s.rdata id (by rw [← h]; cases s.rdata <;> rfl)
  | rpar => exact invalid _ _ _ h

theorem readFault_some {s : State} {f : Fault} (h : readFault s = some f) :
    ∃ r, s.port.read = some r ∧ s.rspRead r = .error f := by
  unfold readFault at h
  split at h
  · simp at h
  · rename_i r hr
    refine ⟨r, hr, ?_⟩
    split at h
    · simp at h
    · rename_i f' hf
      rw [hf, Option.some.inj h]

theorem State.inProgress_of_rspValid {s : State} (h : s.rspValid = true) : s.inProgress = false := by
  simp [State.inProgress, h]

/-- The engine of a block in order, whose host keeps the port's duties, moves unless the host reads an invalid register. -/
theorem Inv.engineMove {s : State} (h : Inv s) (hobeys : HostObeys s) :
    (∃ u, engineMove s = .next u) ∨ ∃ r, s.port.read = some r ∧ s.rspRead r = .error (.invalidRegister (rspRegName r)) ∧
      engineMove s = .fault (.invalidRegister (rspRegName r)) := by
  obtain ⟨-, -, hread, hdown⟩ := hobeys
  unfold Machine.engineMove
  cases hf : readFault s with
  | some f =>
    obtain ⟨r, hr, he⟩ := readFault_some hf
    obtain rfl := State.rspRead_error (State.inProgress_of_rspValid (hread (by simp [hr]))) he
    exact .inr ⟨r, hr, he, rfl⟩
  | none =>
    left
    cases htd : s.port.teardown with
    | true => simp [hdown htd]
    | false =>
      obtain ⟨u, hu, -⟩ := h.stateMove
      exact ⟨u, hu⟩

/-- Settles O54: the peripheral moves or meets a full receive queue, and the engine moves or reports the host's bad read. -/
theorem blockNeverStopsItself : Obligations.BlockNeverStopsItself := by
  intro s h htd hobeys
  cases hp : s.peripheralMoves with
  | true =>
    have hstep : step s = mapNext afterTick (tick s) := by simp [step, stepOnce, htd, hp]
    rcases tick_moves s h.txq_frames h.shifter_frame with ⟨t, ht⟩ | ⟨ht, hfull, -⟩
    · exact .inl ⟨_, by rw [hstep, ht]; rfl⟩
    · exact .inr (.inl ⟨by rw [hstep, ht]; rfl, le_antisymm h.rxq_le hfull⟩)
  | false =>
    have hstep : step s = mapNext afterMove (engineMove s) := by simp [step, stepOnce, htd, hp]
    rcases h.engineMove hobeys with ⟨u, hu⟩ | ⟨r, hr, he, hm⟩
    · exact .inl ⟨_, by rw [hstep, hu]; rfl⟩
    · exact .inr (.inr ⟨r, hr, he, by rw [hstep, hm]; rfl⟩)

end Sys2Proof.Machine
end

section
/-! ## What the target's answers mean to the host

The bits that the target drives (20_memory.md rule R46), the ACK read from them, and the WAIT-retry loop over the responses that carry
it (70_reset_and_hazards.md rule R128). -/

namespace Sys2Proof.Machine

/-- Settles O22: both moves of a loaded shifter clock one cycle, the last of a word and the others. -/
theorem sampledBitIsTheTargetsDraw : Obligations.SampledBitIsTheTargetsDraw := by
  intro s t sh hs ht
  rcases tick_next ht with ⟨hnone, -⟩ | ⟨_, _, hnone, -⟩ | ⟨sh', hs', -, -, rfl⟩ | ⟨sh', hs', -, -, -, rfl⟩
  · simp [hs] at hnone
  · simp [hs] at hnone
  · cases hs.symm.trans hs'; rfl
  · cases hs.symm.trans hs'; rfl

/-- The target drives the three ACK bits of both header frames (30_encoding.md rules R56 and R57). -/
theorem driver_ackBit {k : FrameKind} (hk : k = .hdrR ∨ k = .hdrW) : ∀ i < 3, driver k false (9 + i) = .target := by
  rcases hk with rfl | rfl <;> decide

/-- Settles O14: the ACK is the sampled bits 9 to 11, and the target drives them. -/
theorem ackReadsOnlyTargetBits : Obligations.AckReadsOnlyTargetBits := by
  intro k x y hk agree free free'
  rw [ackField_headerResponse, ackField_headerResponse]
  refine BitVec.eq_of_getLsbD_eq fun i hi => ?_
  have hbit : x.getLsbD (9 + i) = y.getLsbD (9 + i) := agree (9 + i) (by omega) (driver_ackBit hk i hi)
  simp only [BitVec.getLsbD_extractLsb', hbit]

/-! ### The retry loop -/

theorem ackOutcome_eq_wait_iff (a : BitVec 3) : ackOutcome a = AbortCode.wait.code ↔ decodeAck a = .wait := by
  unfold ackOutcome
  cases decodeAck a <;> decide

/-- A TRANSFER's outcome is WAIT only where its ACK was: an OK ACK leaves OK or a parity mismatch (10_state.md rule R19). -/
theorem TransferResults.ack_wait {c : Byte} {s : State} (h : TransferResults c s) (ho : s.outcome = some AbortCode.wait.code) :
    s.ack.map decodeAck = some .wait := by
  obtain ⟨a, o, ha, ho', hcases⟩ := h
  obtain rfl : AbortCode.wait.code = o := Option.some.inj (ho.symm.trans ho')
  rcases hcases with ⟨-, hack, -⟩ | ⟨-, -, hok, -⟩ | ⟨-, -, w, p, -, -, hparity⟩
  · rw [ha, Option.map_some, (ackOutcome_eq_wait_iff a).1 hack.symm]
  · exact absurd hok (by decide)
  · split at hparity <;> exact absurd hparity (by decide)

/-- A command ends with WAIT only behind a WAIT ACK: a reserved word, a line-control command and a capacity error give other outcomes. -/
theorem EndedResults.ack_wait {c : Byte} {s : State} (h : EndedResults c s) (ho : s.outcome = some AbortCode.wait.code) :
    s.ack.map decodeAck = some .wait := by
  have other : ∀ {o : BitVec 3}, s.outcome = some o → o = AbortCode.wait.code :=
    fun h => Option.some.inj (h.symm.trans ho)
  unfold EndedResults at h
  split at h
  · obtain ⟨hbad, -⟩ := h
    exact absurd (other hbad) (by decide)
  · split at h
    · rcases h with htransfer | ⟨hcapacity, -⟩
      · exact htransfer.ack_wait ho
      · exact absurd (other hcapacity) (by decide)
    · obtain ⟨hok | hcapacity, -⟩ := h
      · exact absurd (other hok) (by decide)
      · exact absurd (other hcapacity) (by decide)

/-- The command whose response is shown has ended (10_state.md rules R19 and R21). -/
theorem Inv.endedResults {s : State} (h : Inv s) (hv : s.rspValid = true) : ∃ c, s.cmd = some c ∧ EndedResults c s := by
  have hstage := h.stage
  simp only [State.rspValid, Bool.or_eq_true, beq_iff_eq] at hv
  rcases hv with hst | hst <;> simp only [StageOk, hst] at hstage
  · obtain ⟨c, hc, hended, -⟩ := hstage
    exact ⟨c, hc, hended⟩
  · obtain ⟨c, -, hc, hended, -⟩ := hstage
    exact ⟨c, hc, hended⟩

/-- A response shows the outcome and ACK registers. -/
theorem State.response_registers {s : State} {r : Response} (h : s.response = some r) :
    s.outcome = some r.outcome ∧ s.ack = r.ack := by
  unfold State.response at h
  split at h
  · rename_i ho
    obtain rfl := Option.some.inj h
    exact ⟨ho, rfl⟩
  · simp at h

/-- A response of the machine with outcome WAIT carries a WAIT ACK. -/
theorem GivenTo.ackKind_wait {c : Byte} {r : Response} (h : GivenTo c r) (ho : r.outcome = AbortCode.wait.code) :
    r.ackKind = some .wait := by
  obtain ⟨-, s, hinv, hvalid, hr⟩ := h
  obtain ⟨houtcome, hack⟩ := State.response_registers hr
  obtain ⟨c', -, hended⟩ := hinv.endedResults hvalid
  rw [Response.ackKind, ← hack, hended.ack_wait (houtcome.trans (congrArg some ho))]

/-- The loop repeats through a run of WAITs and ends with the first other response. -/
theorem retryResponses_waits_append {waits : List Response} (hw : ∀ w ∈ waits, w.outcome = AbortCode.wait.code) {r : Response}
    (hr : r.outcome ≠ AbortCode.wait.code) (rest : List Response) : retryResponses (waits ++ r :: rest) = waits ++ [r] := by
  induction waits with
  | nil => simp [retryResponses, hr]
  | cons w waits ih =>
    obtain ⟨hwait, hwaits⟩ := List.forall_mem_cons.1 hw
    simp [retryResponses, hwait, ih hwaits]

/-- The first `m` tries, where the first that is no WAIT is among them: the loop makes those up to and including it. -/
theorem retryResponses_range {tries : Nat → Response} {n m : Nat} (hw : ∀ k < n, (tries k).outcome = AbortCode.wait.code)
    (hn : (tries n).outcome ≠ AbortCode.wait.code) (hm : n < m) :
    retryResponses ((List.range m).map tries) = (List.range (n + 1)).map tries := by
  obtain ⟨j, rfl⟩ := Nat.exists_eq_add_of_lt hm
  have hwaits : ∀ w ∈ (List.range n).map tries, w.outcome = AbortCode.wait.code := by simpa using hw
  obtain ⟨rest, hrest⟩ : ∃ rest, (List.range (n + j + 1)).map tries = (List.range n).map tries ++ tries n :: rest :=
    ⟨_, by rw [Nat.add_assoc, List.range_add, List.map_append, List.range_succ_eq_map]; rfl⟩
  rw [hrest, retryResponses_waits_append hwaits hn, List.range_succ, List.map_append]
  rfl

/-- Settles O57: the try that the premise gives has another outcome than WAIT, so a first such try exists. -/
theorem retryEndsUnderThePremise : Obligations.RetryEndsUnderThePremise := by
  intro v c tries given premised accepts
  obtain ⟨n, kind, hkind, hne⟩ := accepts premised
  have hends : (tries n).outcome ≠ 1 := fun ho =>
    hne (Option.some.inj (hkind.symm.trans ((given n).ackKind_wait ho)))
  have hex : ∃ n, (tries n).outcome ≠ 1 := ⟨n, hends⟩
  have hwaits : ∀ k < Nat.find hex, (tries k).outcome = 1 := fun k hk => not_not.1 (Nat.find_min hex hk)
  exact ⟨Nat.find hex, hwaits, Nat.find_spec hex, fun m hm => retryResponses_range hwaits (Nat.find_spec hex) hm⟩

end Sys2Proof.Machine
end

section
/-! ## The encodings

The TRANSFER and header rows go through the request they name (`transferInstr`, `headerInstr`), so that the decoder and the encoder are
compared once for each kind of word (30_encoding.md rules R49 to R54). -/

namespace Sys2Proof.Machine

@[simp] theorem encode_transferInstr (ap r : Bool) (a : BitVec 2) (d : Word) :
    encode (transferInstr ap r a d) = .command (transferByte ap r a) d := by
  cases ap <;> cases r <;> rfl

@[simp] theorem encode_headerInstr (ap r : Bool) (a : BitVec 2) (p : Bool) :
    encode (headerInstr ap r a p) = .header (headerByte ap r a p) := by
  cases ap <;> cases r <;> rfl

theorem wellFormed_transferInstr (ap r : Bool) (a : BitVec 2) (d : Word) : WellFormed (transferInstr ap r a d) = true := by
  cases ap <;> cases r <;> rfl

theorem wellFormed_headerInstr (ap r : Bool) (a : BitVec 2) (p : Bool) :
    WellFormed (headerInstr ap r a p) = true ↔ p = headerParity ap r a := by
  cases ap <;> cases r <;> exact beq_iff_eq

theorem decode_encode_transfer (ap r : Bool) (a : BitVec 2) (d : Word) :
    decode (encode (transferInstr ap r a d)) = .ok (transferInstr ap r a d) := by
  obtain ⟨hap, hr, ha⟩ := fields_transferByte ap r a
  rw [encode_transferInstr, decode, decodeCommand_transfer (isTransfer_transferByte ap r a), hap, hr, ha]

theorem decodeHeader_buildHeader (ap r : Bool) (a : BitVec 2) :
    decodeHeader (buildHeader ap r a) = .ok (headerInstr ap r a (headerParity ap r a)) := by
  revert ap r a; decide

theorem decode_encode_header {ap r : Bool} {a : BitVec 2} {p : Bool} (h : WellFormed (headerInstr ap r a p) = true) :
    decode (encode (headerInstr ap r a p)) = .ok (headerInstr ap r a p) := by
  obtain rfl := (wellFormed_headerInstr ap r a p).1 h
  rw [encode_headerInstr]
  exact decodeHeader_buildHeader ap r a

/-- Settles O1: the four TRANSFER rows and the four header rows by their request, the line-control rows by their byte. -/
theorem decodeOfEncodeIsTheInstruction : Obligations.DecodeOfEncodeIsTheInstruction := by
  intro i h
  cases i with
  | dpr a d => exact decode_encode_transfer false true a d
  | dpw a d => exact decode_encode_transfer false false a d
  | apr a d => exact decode_encode_transfer true true a d
  | apw a d => exact decode_encode_transfer true false a d
  | lineReset d => rfl
  | switchToSwd d => rfl
  | connect d => rfl
  | hdrDpRead a p => exact decode_encode_header (ap := false) (r := true) h
  | hdrDpWrite a p => exact decode_encode_header (ap := false) (r := false) h
  | hdrApRead a p => exact decode_encode_header (ap := true) (r := true) h
  | hdrApWrite a p => exact decode_encode_header (ap := true) (r := false) h

/-- A byte with Start, Stop and Park in place is made of its fields and its parity bit (30_encoding.md rule R53). -/
theorem headerByte_fields {h : Byte} (start : h.getLsbD 0 = true) (stop : h.getLsbD 6 = false) (park : h.getLsbD 7 = true) :
    headerByte (fieldAPnDP h) (fieldRnW h) (fieldAddr h) (h.getLsbD 5) = h := by
  revert h; decide

/-- A byte that decodes as a header is the one `BuildHeader` makes of its fields (30_encoding.md rule R54). -/
theorem decodeHeader_ok {h : Byte} {i : Instr} (hd : decodeHeader h = .ok i) :
    h = buildHeader (fieldAPnDP h) (fieldRnW h) (fieldAddr h) ∧
      i = headerInstr (fieldAPnDP h) (fieldRnW h) (fieldAddr h) (headerParity (fieldAPnDP h) (fieldRnW h) (fieldAddr h)) := by
  unfold decodeHeader at hd
  split at hd
  · simp at hd
  · rename_i start
    split at hd
    · simp at hd
    · rename_i stop
      split at hd
      · simp at hd
      · rename_i park
        split at hd
        · rename_i parity
          rw [parity, Except.ok.injEq] at hd
          refine ⟨?_, hd.symm⟩
          rw [buildHeader, ← parity]
          exact (headerByte_fields (by simpa using start) (by simpa using stop) (by simpa using park)).symm
        · simp at hd

/-- Settles O2: a command word by the kind it decodes to, a header by its fields. -/
theorem decodedWordsAreAnEncoding : Obligations.DecodedWordsAreAnEncoding := by
  intro w i hd
  cases w with
  | command c d =>
    rcases decodeCommand_ok hd with ⟨ht, rfl⟩ | ⟨rfl, rfl⟩ | ⟨rfl, rfl⟩ | ⟨rfl, rfl⟩
    · exact ⟨wellFormed_transferInstr .., by rw [encode_transferInstr, transferByte_fields ht]⟩
    all_goals exact ⟨rfl, rfl⟩
  | header h =>
    obtain ⟨hh, rfl⟩ := decodeHeader_ok hd
    refine ⟨(wellFormed_headerInstr ..).2 rfl, ?_⟩
    rw [encode_headerInstr]
    exact congrArg Words.header hh.symm

/-- The decoder refuses the reserved command words and no others (30_encoding.md rule R51). -/
theorem decodeCommand_error_iff (c : Byte) (d : Word) : (∃ e, decodeCommand c d = .error e) ↔ reservedCommand c = true := by
  refine ⟨fun ⟨e, he⟩ => reservedCommand_of_decode_error he, fun hr => ?_⟩
  obtain ⟨ht, hl⟩ := reserved_excludes hr
  cases hd : decodeCommand c d with
  | error e => exact ⟨e, rfl⟩
  | ok i => simp [isLineControl_of_decode hd ht] at hl

/-- `reservedCommand` as R51's three bullets on the raw bits. -/
theorem reservedCommand_iff (c : Byte) : reservedCommand c = true ↔
    (0b100 ≤ (c.extractLsb' 5 3).toNat ∨ (c.extractLsb' 5 3 = 0b000#3 ∧ c.getLsbD 0 = true) ∨
      (c.extractLsb' 5 3 ∈ [0b001#3, 0b010#3, 0b011#3] ∧ c.extractLsb' 0 5 ≠ 0#5)) := by
  simp only [reservedCommand, Bool.or_eq_true, Bool.and_eq_true, decide_eq_true_eq, beq_iff_eq, bne_iff_ne, List.mem_cons,
    List.not_mem_nil, or_false, or_assoc]
  rfl

/-- Settles O4: what the decoder refuses is `reservedCommand`, which is R51's bullets; the counts are over the 256 bytes. -/
theorem reservedCommandsAreTheThreeKinds : Obligations.ReservedCommandsAreTheThreeKinds := by
  refine ⟨fun c d => ?_, by decide +kernel, by decide +kernel, by decide +kernel⟩
  rw [decode, decodeCommand_error_iff, reservedCommand_iff]

/-- Settles O3, by evaluation of the decoder on the eleven words. -/
theorem specWordsDecode : Obligations.SpecWordsDecode := by
  unfold Obligations.SpecWordsDecode
  decide

/-- Settles O5, by evaluation of the sixteen headers. -/
theorem headerByteBitByBit : Obligations.HeaderByteBitByBit := by
  unfold Obligations.HeaderByteBitByBit
  decide

/-- Only a multiple of 4 up to 0xC has a register index (30_encoding.md rule R62). -/
theorem asmAddr_eq_none {off : Nat} (h : off ∉ [0x0, 0x4, 0x8, 0xC]) : asmAddr off = none := by
  simp only [List.mem_cons, List.not_mem_nil, or_false, not_or] at h
  obtain ⟨h0, h4, h8, hC⟩ := h
  rw [asmAddr, if_neg h0, if_neg h4, if_neg h8, if_neg hC]

/-- Settles O15: the four offsets by evaluation; without an index no line of a TRANSFER assembles. -/
theorem assemblerWritesTheCommandBytes : Obligations.AssemblerWritesTheCommandBytes := by
  intro off d
  refine ⟨fun hoff => ?_, fun hoff => ?_, rfl, rfl, rfl⟩
  · simp only [List.mem_cons, List.not_mem_nil, or_false] at hoff
    rcases hoff with rfl | rfl | rfl | rfl <;> exact ⟨rfl, rfl, rfl, rfl⟩
  · simp [assemble, asmAddr_eq_none hoff]

end Sys2Proof.Machine
end

section
/-! ## The data frames

The words of the data phase, bit by bit (30_encoding.md rules R58 and R59). The mask of the low 16 bits is the transport's `lowBits`. -/

namespace Sys2Proof.Machine

theorem getLsbD_lowBits (w : Word) (len : BitVec 5) (i : Nat) :
    (lowBits w len).getLsbD i = (w.getLsbD i && decide (i < len.toNat)) := by
  have hlen : len.toNat < 32 := len.isLt
  rw [lowBits, BitVec.getLsbD_and, BitVec.getLsbD_ofNat, Nat.testBit_two_pow_sub_one]
  by_cases h : i < len.toNat
  · simp [h, h.trans hlen]
  · simp [h]

theorem getLsbD_lowHalf (w : Word) (i : Nat) : (lowBits w 16).getLsbD i = (w.getLsbD i && decide (i < 16)) :=
  getLsbD_lowBits w 16 i

/-- One bit, shifted to its place: the parity bit of a write, and a sampled bit. -/
theorem getLsbD_bitAt {k : Nat} (hk : k < 32) (b : Bool) (i : Nat) :
    ((if b then 1#32 else 0#32) <<< k).getLsbD i = (b && decide (i = k)) := by
  cases b
  · simp
  · have h : (1#32 <<< k) = BitVec.twoPow 32 k := rfl
    rw [if_pos rfl, h, BitVec.getLsbD_twoPow]
    simp [hk, eq_comm]

theorem readWord_eq (s1 s2 : Word) : readWord s1 s2 = lowBits s1 16 ||| (lowBits s2 16 <<< 16) := rfl

theorem getLsbD_readWord_low (s1 s2 : Word) {i : Nat} (h : i < 16) : (readWord s1 s2).getLsbD i = s1.getLsbD i := by
  rw [readWord_eq, BitVec.getLsbD_or, BitVec.getLsbD_shiftLeft, getLsbD_lowHalf]
  simp [h]

theorem getLsbD_readWord_high (s1 s2 : Word) {i : Nat} (h : 16 ≤ i) (h' : i < 32) :
    (readWord s1 s2).getLsbD i = s2.getLsbD (i - 16) := by
  have hlow : ¬ i < 16 := by omega
  have hhigh : i - 16 < 16 := by omega
  rw [readWord_eq, BitVec.getLsbD_or, BitVec.getLsbD_shiftLeft, getLsbD_lowHalf, getLsbD_lowHalf]
  simp [hlow, hhigh, h']

/-- Settles O11: the two halves of `readWord`. -/
theorem readWordIsTheTwoHalves : Obligations.ReadWordIsTheTwoHalves :=
  fun s1 s2 _ => ⟨getLsbD_readWord_low s1 s2, getLsbD_readWord_high s1 s2, rfl⟩

/-- The word of `WR_HI` (30_encoding.md rule R59). -/
def writeHigh (d : Word) : Word := (d >>> 16) ||| ((if parityBit d then 1#32 else 0#32) <<< 16)

theorem writeFrames_eq (d : Word) : writeFrames d = [⟨lowBits d 16, 16⟩, ⟨writeHigh d, 17⟩] := rfl

theorem getLsbD_writeHigh (d : Word) (i : Nat) :
    (writeHigh d).getLsbD i = if i = 16 then parityBit d else d.getLsbD (16 + i) := by
  rw [writeHigh, BitVec.getLsbD_or, BitVec.getLsbD_ushiftRight, getLsbD_bitAt (by decide)]
  by_cases h : i = 16
  · simp [h]
  · simp [h]

/-- Settles O12: the low half is cut at bit 16, and the parity bit stands where the high half ends. -/
theorem writeFramesCarryWordAndParity : Obligations.WriteFramesCarryWordAndParity := by
  intro d
  refine ⟨_, _, writeFrames_eq d, rfl, rfl, fun i hi => ⟨?_, ?_⟩, ?_, fun i hi => ?_, fun i hi => ?_⟩
  · rw [getLsbD_lowHalf, decide_eq_true hi, Bool.and_true]
  · rw [getLsbD_writeHigh, if_neg hi.ne]
  · rw [getLsbD_writeHigh, if_pos rfl]
  · rw [getLsbD_lowHalf, decide_eq_false (Nat.not_lt.2 hi), Bool.and_false]
  · rw [getLsbD_writeHigh, if_neg (by omega), BitVec.getLsbD_of_ge d _ (by omega)]

/-- The parity bit passes the read-side check (41_codec.md rules R81 and R82). -/
theorem parityOk_parityBit (w : Word) : parityOk w (parityBit w) = true := by
  rcases Nat.mod_two_eq_zero_or_one (popcount w) with h | h <;> simp [parityOk, parityBit, h, Nat.add_mod]

theorem readWord_writeFrames (d : Word) : readWord (lowBits d 16) (writeHigh d) = d := by
  refine BitVec.eq_of_getLsbD_eq fun i hi => ?_
  by_cases h : i < 16
  · rw [getLsbD_readWord_low _ _ h, getLsbD_lowHalf, decide_eq_true h, Bool.and_true]
  · have hhigh : 16 ≤ i := Nat.not_lt.1 h
    rw [getLsbD_readWord_high _ _ hhigh hi, getLsbD_writeHigh, if_neg (by omega), Nat.add_sub_cancel' hhigh]

theorem readParity_writeHigh (d : Word) : readParity (writeHigh d) = parityBit d := by
  rw [readParity, getLsbD_writeHigh, if_pos rfl]

/-- Settles O13: the halves come back as the word, and the parity bit is the word's. -/
theorem writeThenReadFramesRoundTrip : Obligations.WriteThenReadFramesRoundTrip := by
  intro d lo hi h
  rw [writeFrames_eq] at h
  obtain ⟨rfl, rfl⟩ : ⟨lowBits d 16, 16⟩ = lo ∧ ⟨writeHigh d, 17⟩ = hi := by simpa using h
  refine ⟨readWord_writeFrames d, ?_⟩
  rw [readWord_writeFrames, readParity_writeHigh, parityOk_parityBit]

end Sys2Proof.Machine
end

section
/-! ## The peripheral shifts a batch out

From the push to the last raw word (40_transport.md rule R71). The samples that the capture will give are read off the trace here, so that
what follows does not look inside the shifter again. -/

namespace Sys2Proof.Machine

/-- The capture shift undoes the raw layout, whatever the padding holds (40_transport.md rules R71 and R73). -/
theorem captureShift_rawWord (len : BitVec 5) (got pad : Word) : captureShift (rawWord len got pad) len = lowBits got len := by
  refine BitVec.eq_of_getLsbD_eq fun i hi => ?_
  have hlen : len.toNat < 32 := len.isLt
  have inField : 32 - len.toNat + i < 32 ↔ i < len.toNat := by omega
  have noPad : ¬ 32 - len.toNat + i < 32 - len.toNat := by omega
  rw [getLsbD_lowBits, captureShift, BitVec.getLsbD_ushiftRight, rawWord, BitVec.getLsbD_or, BitVec.getLsbD_shiftLeft,
    BitVec.getLsbD_and, BitVec.getLsbD_ofNat, Nat.testBit_two_pow_sub_one, decide_eq_false noPad, Nat.add_sub_cancel_left]
  simp [inField, Bool.and_comm]

theorem getLsbD_withSample {k : Nat} (hk : k < 32) (got : Word) (b : Bool) (i : Nat) :
    (withSample got k b).getLsbD i = (got.getLsbD i || (b && decide (i = k))) := by
  rw [withSample, BitVec.getLsbD_or, getLsbD_bitAt hk]

/-! ### The peripheral's moves, forwards -/

theorem tick_load {s : State} {f : Frame} {rest : List Frame} (hs : s.shifter = none) (hq : s.txq = f :: rest)
    (hf : frameLenOk f.len = true) : tick s = .next { s with txq := rest, shifter := some ⟨f.word, f.len, 0, 0⟩ } := by
  simp [tick, hs, hq, hf]

theorem tick_shift {s : State} {sh : Shifter} (hs : s.shifter = some sh) (hf : frameLenOk sh.len = true)
    (hk : sh.k + 1 < sh.len.toNat) :
    tick s = .next { sh.clocked s with shifter := some ⟨sh.word, sh.len, sh.k + 1, sh.gotNext s⟩ } := by
  have hlt : sh.k < sh.len.toNat := by omega
  simp only [tick, hs, hf, hlt, decide_true, Bool.and_self, if_true, shiftBit, hk]
  rfl

theorem tick_last {s : State} {sh : Shifter} (hs : s.shifter = some sh) (hf : frameLenOk sh.len = true)
    (hk : sh.k + 1 = sh.len.toNat) (hr : s.rxq.length < fifoDepth) :
    tick s = .next { sh.clocked s with
      shifter := none, rxq := s.rxq ++ [rawWord sh.len (sh.gotNext s) (Config.rawPad s.draws)] } := by
  have hlt : sh.k < sh.len.toNat := by omega
  simp only [tick, hs, hf, hlt, decide_true, Bool.and_self, if_true, shiftBit, hk, lt_irrefl, if_false, hr]
  rfl

/-- `n` moves of the peripheral, each of which finds it busy. -/
inductive Clocks : Nat → State → State → Prop
  | refl (s : State) : Clocks 0 s s
  | head {n : Nat} {s t u : State} : s.busy = true → tick s = .next t → Clocks n t u → Clocks (n + 1) s u

theorem Clocks.trans {m n : Nat} {s t u : State} (h : Clocks m s t) (h' : Clocks n t u) : Clocks (m + n) s u := by
  induction h with
  | refl s => rwa [Nat.zero_add]
  | head hb ht _ ih => rw [Nat.add_right_comm]; exact .head hb ht (ih h')

theorem Clocks.tickN {n : Nat} {s t : State} (h : Clocks n s t) : tickN n s = .next t := by
  induction h with
  | refl s => rfl
  | head _ ht _ ih => simp only [Machine.tickN, ht, ih]

/-- While the peripheral is busy a run is the peripheral's (40_transport.md rule R69). -/
theorem Clocks.advanceN {n : Nat} {s t : State} (h : Clocks n s t) (i : Instr) : advanceN i n s = .next t := by
  induction h with
  | refl s => rfl
  | head hb ht _ ih => simp only [Machine.advanceN, advance, hb, if_true, ht, ih]

theorem State.busy_of_shifter {s : State} {sh : Shifter} (h : s.shifter = some sh) : s.busy = true := by
  simp [State.busy, h]

theorem State.busy_of_txq {s : State} {f : Frame} {rest : List Frame} (h : s.txq = f :: rest) : s.busy = true := by
  simp [State.busy, h]

/-- The cycle that bit `i` of a word makes when `inp` is sampled. -/
def cycleAt (word inp : Word) (i : Nat) : WireEvent := .cycle (word.getLsbD i) (inp.getLsbD i)

theorem frameCycles_eq (f : Frame) (inp : Word) : frameCycles f inp = (List.range f.len.toNat).map (cycleAt f.word inp) := rfl

/-- A frame's cycles look at the low bits of both words only. -/
theorem frameCycles_congr {f g : Frame} {x y : Word} (hl : g.len = f.len)
    (h : ∀ i < f.len.toNat, g.word.getLsbD i = f.word.getLsbD i ∧ y.getLsbD i = x.getLsbD i) : frameCycles g y = frameCycles f x := by
  rw [frameCycles_eq, frameCycles_eq, hl]
  refine List.map_congr_left fun i hi => ?_
  obtain ⟨hword, hinp⟩ := h i (List.mem_range.1 hi)
  rw [cycleAt, cycleAt, hword, hinp]

theorem frameCycles_pushed (f : Frame) (inp : Word) : frameCycles f.pushed inp = frameCycles f inp :=
  frameCycles_congr rfl fun i hi => ⟨by rw [Frame.pushed, getLsbD_lowBits, decide_eq_true hi, Bool.and_true], rfl⟩

theorem frameCycles_lowBits (f : Frame) (inp : Word) : frameCycles f (lowBits inp f.len) = frameCycles f inp :=
  frameCycles_congr rfl fun i hi => ⟨rfl, by rw [getLsbD_lowBits, decide_eq_true hi, Bool.and_true]⟩

/-- The cycle now due puts its sample at bit `k`, and no other bit changes. -/
theorem Shifter.gotNext_self {sh : Shifter} (hk : sh.k < sh.len.toNat) (hclear : sh.got.getLsbD sh.k = false) (s : State) :
    (sh.gotNext s).getLsbD sh.k = sh.sample s := by
  simp [Shifter.gotNext, getLsbD_withSample (hk.trans sh.len.isLt), hclear]

theorem Shifter.gotNext_ne {sh : Shifter} (hk : sh.k < sh.len.toNat) {i : Nat} (hi : i ≠ sh.k) (s : State) :
    (sh.gotNext s).getLsbD i = sh.got.getLsbD i := by
  simp [Shifter.gotNext, getLsbD_withSample (hk.trans sh.len.isLt), hi]

/-- `s` when the peripheral has handed over the raw words `raws`, which took `events`, and its shifter is empty. -/
def State.received (s : State) (txq : List Frame) (raws : List Word) (events : List WireEvent) (draws : Nat) : State :=
  { s with txq := txq, shifter := none, rxq := s.rxq ++ raws, trace := s.trace ++ events, draws := draws }

/-- The last `m + 1` bits of the word in the shifter: a cycle each, and the raw word of all the bits sampled. -/
theorem Clocks.shiftOut (m : Nat) {s : State} {sh : Shifter} (hs : s.shifter = some sh) (hf : frameLenOk sh.len = true)
    (hk : sh.k + (m + 1) = sh.len.toNat) (hr : s.rxq.length < fifoDepth) (hclear : ∀ i, sh.k ≤ i → sh.got.getLsbD i = false) :
    ∃ got pad draws,
      Clocks (m + 1) s (s.received s.txq [rawWord sh.len got pad]
        ((List.range' sh.k (m + 1)).map (cycleAt sh.word got)) draws) ∧
      ∀ i < sh.k, got.getLsbD i = sh.got.getLsbD i := by
  induction m generalizing s sh with
  | zero =>
    have hlt : sh.k < sh.len.toNat := by omega
    have hcycle : .cycle (sh.word.getLsbD sh.k) (sh.sample s) = cycleAt sh.word (sh.gotNext s) sh.k := by
      rw [cycleAt, Shifter.gotNext_self hlt (hclear _ le_rfl)]
    refine ⟨sh.gotNext s, Config.rawPad s.draws, s.draws + 1, ?_, fun i hi => Shifter.gotNext_ne hlt hi.ne s⟩
    refine .head (State.busy_of_shifter hs) (tick_last hs hf hk hr) ?_
    rw [Shifter.clocked, hcycle]
    exact .refl _
  | succ m ih =>
    have hlt : sh.k < sh.len.toNat := by omega
    have hclear' : ∀ i, sh.k + 1 ≤ i → (sh.gotNext s).getLsbD i = false := fun i hi => by
      rw [Shifter.gotNext_ne hlt (by omega), hclear i (by omega)]
    obtain ⟨got, pad, draws, hrest, hkept⟩ :=
      ih (s := { sh.clocked s with shifter := some ⟨sh.word, sh.len, sh.k + 1, sh.gotNext s⟩ }) rfl hf
        (by rw [← hk, Nat.add_right_comm]; rfl) hr hclear'
    have hcycle : cycleAt sh.word got sh.k = .cycle (sh.word.getLsbD sh.k) (sh.sample s) := by
      rw [cycleAt, hkept sh.k (Nat.lt_succ_self _), Shifter.gotNext_self hlt (hclear _ le_rfl)]
    refine ⟨got, pad, draws, ?_, fun i hi => ?_⟩
    · refine .head (State.busy_of_shifter hs) (tick_shift hs hf (by omega)) ?_
      simpa [State.received, Shifter.clocked, List.range'_succ, hcycle] using hrest
    · rw [hkept i (Nat.lt_succ_of_lt hi), Shifter.gotNext_ne hlt hi.ne]

/-- A word at the head of the transmit queue: one move to load it, one for each bit. -/
theorem Clocks.word {s : State} {f : Frame} {rest : List Frame} (hs : s.shifter = none) (hq : s.txq = f :: rest)
    (hf : frameLenOk f.len = true) (hr : s.rxq.length < fifoDepth) :
    ∃ raw draws, Clocks (f.len.toNat + 1) s (s.received rest [raw] (frameCycles f (captureShift raw f.len)) draws) := by
  obtain ⟨m, hm⟩ := Nat.exists_eq_add_of_le' ((frameLenOk_iff _).1 hf).1
  obtain ⟨got, pad, draws, hout, -⟩ :=
    Clocks.shiftOut m (s := { s with txq := rest, shifter := some ⟨f.word, f.len, 0, 0⟩ }) rfl hf (by simp [hm]) hr (by simp)
  refine ⟨rawWord f.len got pad, draws, .head (State.busy_of_txq hq) (tick_load hs hq hf) ?_⟩
  rw [captureShift_rawWord, frameCycles_lowBits, frameCycles_eq, hm, List.range_eq_range']
  exact hout

/-- The samples that the capture takes from the raw words of a batch (40_transport.md rules R72 and R73). -/
def samplesOf (b : List Frame) (raws : List Word) : List Word := List.zipWith (fun f raw => captureShift raw f.len) b raws

theorem samplesOf_length {b : List Frame} {raws : List Word} (h : raws.length = b.length) :
    (samplesOf b raws).length = b.length := by
  simp [samplesOf, h]

/-- How many moves the peripheral needs for the words of a batch. -/
def batchMoves (b : List Frame) : Nat := (b.map fun f => f.len.toNat + 1).sum

/-- `s` when the words pushed for the batch `b` have been shifted out and have given the raw words `raws`. -/
def State.shiftedOut (s : State) (b : List Frame) (raws : List Word) (draws : Nat) : State :=
  s.received [] raws (List.zipWith frameCycles b (samplesOf b raws)).flatten draws

/-- The words pushed for a batch, shifted out one after the other: the wire shows the batch's frames, and a raw word stands for each. -/
theorem Clocks.batch (b : List Frame) {s : State} (hs : s.shifter = none) (hq : s.txq = b.map Frame.pushed)
    (hf : ∀ f ∈ b, frameLenOk f.len = true) (hr : s.rxq.length + b.length ≤ fifoDepth) :
    ∃ raws draws, raws.length = b.length ∧ Clocks (batchMoves b) s (s.shiftedOut b raws draws) := by
  induction b generalizing s with
  | nil =>
    refine ⟨[], s.draws, rfl, ?_⟩
    have same : s.shiftedOut [] [] s.draws = s := by
      cases s; simp_all [State.shiftedOut, State.received, samplesOf]
    rw [same]
    exact .refl s
  | cons f b ih =>
    obtain ⟨hff, hfb⟩ := List.forall_mem_cons.1 hf
    rw [List.length_cons] at hr
    obtain ⟨raw, draws, hword⟩ := Clocks.word hs hq hff (by omega)
    obtain ⟨raws, draws', hlen, hbatch⟩ :=
      ih (s := s.received (b.map Frame.pushed) [raw] (frameCycles f.pushed (captureShift raw f.len)) draws) rfl rfl hfb
        (by simp [State.received]; omega)
    refine ⟨raw :: raws, draws', by rw [List.length_cons, hlen, List.length_cons], ?_⟩
    have both := hword.trans hbatch
    rw [frameCycles_pushed] at both
    simpa [batchMoves, State.shiftedOut, State.received, samplesOf] using both

end Sys2Proof.Machine
end

section
/-! ## Whole commands

An exchange from its call to its capture as one run, then the stages of a command one after the other (30_encoding.md rule R60,
42_engine.md rules R87 to R92, 43_line.md rule R103). -/

namespace Sys2Proof.Machine

/-- `s` after the push of the batch `b`. -/
def State.afterPush (s : State) (b : List Frame) : State :=
  { s with slots := invalidateRx b.length (populateSlots b s.slots), count := b.length, trace := s.trace ++ [.gap],
           txq := b.map Frame.pushed, phase := .waitDone }

/-- The call with an idle peripheral and room for the batch: a Gap, and the batch pushed (40_transport.md rules R65, R70 and R76). -/
theorem exchange_push {b : List Frame} {s : State} (hb : GoodBatch b) (hp : s.phase = .call) (hl : s.bitOrder = .lsbFirst)
    (h4 : s.slots.length = fifoDepth) (hq : s.txq = []) (hs : s.shifter = none) (hr : s.rxq.length + b.length ≤ fifoDepth) :
    exchange b s = .pending (s.afterPush b) := by
  have room : ¬ (b.length > fifoDepth - s.txLevel ∨ b.length > fifoDepth - s.rxLevel) := by
    simp only [State.txLevel, State.rxLevel, hq, List.length_nil]; omega
  have idle : s.busy = false := s.not_busy_iff.2 ⟨hq, hs⟩
  have count := State.populate_count s b hb.fits
  have slots := State.populate_slots s b hb.fits
  have out : ((s.populate b).slots.take (s.populate b).count).map Slot.out = b.map Frame.out := by
    rw [slots, count]; exact populateSlots_out b s.slots (h4 ▸ hb.fits)
  rw [exchange_call b s hp hl hb.frames, if_neg room, if_neg (by simp [idle]), pushBatch_eq _ b count hb.nonempty out, slots, count]
  simp [State.afterPush, State.populate, hb.fits, hq]

/-- The peripheral is empty and the next exchange can be called. -/
structure State.AtRest (s : State) : Prop where
  quiet : s.Quiet
  lsb   : s.bitOrder = .lsbFirst
  four  : s.slots.length = fifoDepth

theorem State.AtRest.not_busy {s : State} (h : s.AtRest) : s.busy = false :=
  s.not_busy_iff.2 ⟨h.quiet.2.1, h.quiet.2.2.1⟩

/-- `s` after an exchange of the batch `b` that sampled `xs`. -/
def State.afterBatch (s : State) (b : List Frame) (xs : List Word) (slots : List Slot) (draws : Nat) : State :=
  { s with slots := slots, count := b.length, trace := s.trace ++ batchEvents b xs, draws := draws }

/-- `t` has the registers of `s` that say which stage the engine is in and what it sends there. -/
structure SameStage (s t : State) : Prop where
  st     : t.st = s.st
  cmd    : t.cmd = s.cmd
  wdata  : t.wdata = s.wdata
  hdr    : t.hdr = s.hdr
  seq    : t.seq = s.seq
  seqIdx : t.seqIdx = s.seqIdx

/-- Wherever the exchange of the stage of `s` stands, instruction `i` goes on with it and then with `k`. -/
def Exchanging (i : Instr) (b : List Frame) (k : State → List Word → Host.Outcome State Fault Refusal) (s : State) : Prop :=
  ∀ t, SameStage s t → exec i t = onExchange (exchange b t) k

theorem Exchanging.exec {i : Instr} {b : List Frame} {k : State → List Word → Host.Outcome State Fault Refusal} {s : State}
    (h : Exchanging i b k s) : exec i s = onExchange (exchange b s) k :=
  h s ⟨rfl, rfl, rfl, rfl, rfl, rfl⟩

theorem advanceN_trans {i : Instr} {m n : Nat} {s t : State} (h : advanceN i m s = .next t) :
    advanceN i (m + n) s = advanceN i n t := by
  induction m generalizing s with
  | zero => cases h; rw [Nat.zero_add]
  | succ m ih =>
    rw [Nat.add_right_comm]
    simp only [advanceN] at h ⊢
    cases ha : advance i s with
    | next u => simp only [ha] at h ⊢; exact ih h
    | fault r => simp [ha] at h
    | refused r => simp [ha] at h

/-- With an idle peripheral one move of a run is the engine's. -/
theorem advanceN_one {i : Instr} {s : State} (h : s.busy = false) : advanceN i 1 s = exec i s := by
  simp only [advanceN, advance, h, Bool.false_eq_true, if_false]
  cases exec i s <;> rfl

/-- The slots of a batch that is pushed hold its frames. -/
theorem pushedSlots_out {b : List Frame} {slots : List Slot} (h : b.length ≤ slots.length) :
    ((invalidateRx b.length (populateSlots b slots)).take b.length).map Slot.out = b.map Frame.out := by
  rw [List.map_take, invalidateRx_out, ← List.map_take, populateSlots_out b slots h]

/-- The capture of a batch when its raw words alone have arrived (40_transport.md rule R72). -/
theorem exchange_capture {b : List Frame} {s : State} (hp : s.phase = .waitDone) (hbusy : s.busy = false) (hc : s.count = b.length)
    (hout : (s.slots.take b.length).map Slot.out = b.map Frame.out) (hr : s.rxq.length = b.length) :
    ∃ slots, slots.length = s.slots.length ∧
      exchange b s = .done { s with slots := slots, rxq := [], phase := .call } (samplesOf b s.rxq) := by
  obtain ⟨slots, hdone, hlen⟩ := captureBatch_eq s b hc (by rwa [hc]) (by rw [hc, hr])
  refine ⟨slots, hlen, ?_⟩
  have none_left : s.rxq.drop s.count = [] := List.drop_eq_nil_of_le (by rw [hc, hr])
  simp only [exchange, hp, hbusy, Bool.false_eq_true, if_false, hdone, none_left, samplesOf]

/-- An exchange as a run: called by `s` at rest in `u`, pushed, shifted out and captured. The wire shows the batch, and the engine goes
on with a sample for each frame. -/
theorem exchange_runs {i : Instr} {b : List Frame} {k : State → List Word → Host.Outcome State Fault Refusal} {s u : State}
    (hb : GoodBatch b) (hs : s.busy = false) (hu : u.AtRest) (hcall : exec i s = onExchange (exchange b u) k)
    (hk : Exchanging i b k u) :
    ∃ n xs slots draws, xs.length = b.length ∧ slots.length = fifoDepth ∧
      advanceN i n s = k (u.afterBatch b xs slots draws) xs := by
  obtain ⟨⟨hp, hq, hsh, hr⟩, hl, h4⟩ := hu
  have room : u.rxq.length + b.length ≤ fifoDepth := by simpa [hr] using hb.fits
  have call : advanceN i 1 s = .next (u.afterPush b) := by
    rw [advanceN_one hs, hcall, exchange_push hb hp hl h4 hq hsh room]; rfl
  obtain ⟨raws, draws, hlen, hclocks⟩ := Clocks.batch b (s := u.afterPush b) hsh rfl hb.frames room
  have words : ((u.afterPush b).shiftedOut b raws draws).rxq = raws := by
    simp [State.shiftedOut, State.received, State.afterPush, hr]
  obtain ⟨slots, hslots, hdone⟩ := exchange_capture (b := b) (s := (u.afterPush b).shiftedOut b raws draws) rfl rfl rfl
    (pushedSlots_out (h4 ▸ hb.fits)) (by rw [words, hlen])
  refine ⟨1 + (batchMoves b + 1), samplesOf b raws, slots, draws, samplesOf_length hlen, hslots.trans ?_, ?_⟩
  · rw [← h4]
    exact (invalidateRx_length _ _).trans (populateSlots_length _ _)
  · rw [advanceN_trans call, advanceN_trans (hclocks.advanceN i), advanceN_one rfl,
      hk ((u.afterPush b).shiftedOut b raws draws) ⟨rfl, rfl, rfl, rfl, rfl, rfl⟩, hdone, words]
    simp [onExchange, State.shiftedOut, State.received, State.afterPush, State.afterBatch, batchEvents, hp, hq, hsh, hr]

/-- The run of instruction `i` from `s` comes to `t`. -/
def Reaches (i : Instr) (s t : State) : Prop := ∃ n, advanceN i n s = .next t

theorem Reaches.refl (i : Instr) (s : State) : Reaches i s s := ⟨0, rfl⟩

theorem Reaches.trans {i : Instr} {s t u : State} (h : Reaches i s t) (h' : Reaches i t u) : Reaches i s u := by
  obtain ⟨m, hm⟩ := h
  obtain ⟨n, hn⟩ := h'
  exact ⟨m + n, (advanceN_trans hm).trans hn⟩

theorem Reaches.exec {i : Instr} {s t u : State} (h : Reaches i s t) (hb : t.busy = false) (hx : exec i t = .next u) :
    Reaches i s u :=
  h.trans ⟨1, (advanceN_one hb).trans hx⟩

/-! ### The stages of a TRANSFER, each from rest to rest -/

theorem exec_latched {ap r : Bool} {a : BitVec 2} {d : Word} {s : State} (hs : s.st ≠ .ready)
    (hl : s.latched (transferByte ap r a) d = true) : exec (transferInstr ap r a d) s = transferStage ap r a s := by
  rw [exec_transferInstr, runTransfer, if_neg hs, if_pos hl]

theorem SameStage.latched {s t : State} (h : SameStage s t) (c : Byte) (d : Word) : t.latched c d = s.latched c d := by
  rw [State.latched, State.latched, h.cmd, h.wdata]

section
variable {ap r : Bool} {a : BitVec 2} {d : Word} {s₀ s : State}

/-- SEND_HEADER (42_engine.md rule R87). -/
theorem Reaches.sendHeader (h : Reaches (transferInstr ap r a d) s₀ s) (hr : s.AtRest) (hs : s.st = .sendHeader)
    (hl : s.latched (transferByte ap r a) d = true) :
    ∃ x slots draws free, slots.length = fifoDepth ∧
      Reaches (transferInstr ap r a d) s₀ { s.afterBatch [headerFrame r (buildHeader ap r a)] [x] slots draws with
        hdr := some (buildHeader ap r a), hresp := some (headerResponse r x free), st := .awaitAck } := by
  have stage : ∀ {t : State}, t.st = .sendHeader → t.latched (transferByte ap r a) d = true →
      Machine.exec (transferInstr ap r a d) t = Machine.sendHeader r (buildHeader ap r a) t := fun hst hlt => by
    rw [exec_latched (by simp [hst]) hlt]; simp only [transferStage, hst]
  obtain ⟨n, xs, slots, draws, hx, h4, hn⟩ := exchange_runs (goodBatch_header r (buildHeader ap r a)) hr.not_busy
    (u := { s with hdr := some (buildHeader ap r a) }) ⟨hr.quiet, hr.lsb, hr.four⟩ (stage hs hl) fun t ht => by
      have hdr : some (buildHeader ap r a) = t.hdr := ht.hdr.symm
      rw [stage (ht.st.trans hs) ((ht.latched _ _).trans hl), Machine.sendHeader, hdr]
  obtain ⟨x, rfl⟩ := List.length_eq_one_iff.1 hx
  exact ⟨x, slots, draws, _, h4, h.trans ⟨n, hn⟩⟩

/-- AWAIT_ACK with a response to look at (42_engine.md rule R88). -/
theorem awaitAck_eq {h : BitVec 13} (r : Bool) {s : State} (hh : s.hresp = some h) : awaitAck r s = .next (
    if decodeAck (ackField h) = .ok then { s with ack := some (ackField h), st := if r then .sendReadData else .sendWriteData }
    else { s with ack := some (ackField h), outcome := some (ackOutcome (ackField h)), st := .sendIdle }) := by
  simp only [awaitAck, hh, validOr, ackOutcome]
  cases decodeAck (ackField h) <;> rfl

theorem Reaches.awaitAck (h : Reaches (transferInstr ap r a d) s₀ s) (hr : s.AtRest) (hs : s.st = .awaitAck)
    (hl : s.latched (transferByte ap r a) d = true) {x : BitVec 13} (hh : s.hresp = some x) :
    Reaches (transferInstr ap r a d) s₀ (
      if decodeAck (ackField x) = .ok then { s with ack := some (ackField x), st := if r then .sendReadData else .sendWriteData }
      else { s with ack := some (ackField x), outcome := some (ackOutcome (ackField x)), st := .sendIdle }) := by
  refine h.exec hr.not_busy ?_
  rw [exec_latched (by simp [hs]) hl, ← awaitAck_eq r hh]
  simp only [transferStage, hs]

/-- SEND_READ_DATA (42_engine.md rule R89). -/
theorem Reaches.sendReadData (h : Reaches (transferInstr ap true a d) s₀ s) (hr : s.AtRest) (hs : s.st = .sendReadData)
    (hl : s.latched (transferByte ap true a) d = true) :
    ∃ s1 s2 slots draws, slots.length = fifoDepth ∧
      Reaches (transferInstr ap true a d) s₀ { s.afterBatch readFillFrames [s1, s2] slots draws with
        rdata := some (readWord s1 s2), rpar := some (readParity s2), st := .sendIdle,
        outcome := some (if parityOk (readWord s1 s2) (readParity s2) then okCode else AbortCode.parityMismatch.code) } := by
  have stage : Exchanging (transferInstr ap true a d) readFillFrames _ s := fun t ht => by
    rw [exec_latched (by simp [ht.st, hs]) ((ht.latched _ _).trans hl)]
    simp only [transferStage, ht.st, hs, if_true]
    rfl
  obtain ⟨n, xs, slots, draws, hx, h4, hn⟩ := exchange_runs goodBatch_readFill hr.not_busy hr stage.exec stage
  obtain ⟨s1, s2, rfl⟩ := List.length_eq_two.1 hx
  refine ⟨s1, s2, slots, draws, h4, h.trans ⟨n, hn.trans ?_⟩⟩
  by_cases hp : parityOk (readWord s1 s2) (readParity s2) = true
  · simp [hp]
  · simp [hp, State.abort, AbortCode.next]

/-- SEND_WRITE_DATA (42_engine.md rule R91). -/
theorem Reaches.sendWriteData (h : Reaches (transferInstr ap false a d) s₀ s) (hr : s.AtRest) (hs : s.st = .sendWriteData)
    (hl : s.latched (transferByte ap false a) d = true) :
    ∃ s1 s2 slots draws, slots.length = fifoDepth ∧
      Reaches (transferInstr ap false a d) s₀ { s.afterBatch (writeFrames d) [s1, s2] slots draws with
        outcome := some okCode, st := .sendIdle } := by
  have stage : Exchanging (transferInstr ap false a d) (writeFrames d) _ s := fun t ht => by
    have hlt := (ht.latched _ _).trans hl
    have data : t.readWdata = .ok d := State.readWdata_of_latched hlt (usesWdata_transferByte ap false a)
    rw [exec_latched (by simp [ht.st, hs]) hlt]
    simp only [transferStage, ht.st, hs, Bool.false_eq_true, if_false, Machine.sendWriteData, data]
    rfl
  obtain ⟨n, xs, slots, draws, hx, h4, hn⟩ := exchange_runs (goodBatch_write d) hr.not_busy hr stage.exec stage
  obtain ⟨s1, s2, rfl⟩ := List.length_eq_two.1 hx
  exact ⟨s1, s2, slots, draws, h4, h.trans ⟨n, hn⟩⟩

/-- SEND_IDLE (42_engine.md rule R92). -/
theorem Reaches.sendIdle (h : Reaches (transferInstr ap r a d) s₀ s) (hr : s.AtRest) (hs : s.st = .sendIdle)
    (hl : s.latched (transferByte ap r a) d = true) {o : BitVec 3} (ho : s.outcome = some o) :
    ∃ z slots draws, slots.length = fifoDepth ∧
      Reaches (transferInstr ap r a d) s₀ { s.afterBatch [idleFrame] [z] slots draws with
        st := if o = okCode then .done else .faulted } := by
  have stage : Exchanging (transferInstr ap r a d) [idleFrame] _ s := fun t ht => by
    rw [exec_latched (by simp [ht.st, hs]) ((ht.latched _ _).trans hl)]
    simp only [transferStage, ht.st, hs]
    rfl
  obtain ⟨n, xs, slots, draws, hx, h4, hn⟩ := exchange_runs goodBatch_idle hr.not_busy hr stage.exec stage
  obtain ⟨z, rfl⟩ := List.length_eq_one_iff.1 hx
  refine ⟨z, slots, draws, h4, h.trans ⟨n, hn.trans ?_⟩⟩
  simp [State.afterBatch, ho, validOr]

end

/-! ### Cycles on the wire -/

theorem cycleCount_append (tr tr' : List WireEvent) : cycleCount (tr ++ tr') = cycleCount tr + cycleCount tr' :=
  List.countP_append ..

/-- The clock cycles of a batch (30_encoding.md rule R60). -/
def batchCycles (b : List Frame) : Nat := (b.map fun f => f.len.toNat).sum

theorem cycleCount_frameCycles (f : Frame) (inp : Word) : cycleCount (frameCycles f inp) = f.len.toNat := by
  simp [cycleCount, frameCycles, List.countP_map, Function.comp_def]

theorem cycleCount_batchEvents {b : List Frame} {xs : List Word} (h : xs.length = b.length) :
    cycleCount (batchEvents b xs) = batchCycles b := by
  have gap : cycleCount (batchEvents b xs) = cycleCount (List.zipWith frameCycles b xs).flatten :=
    List.countP_cons_of_neg (by simp)
  rw [gap]
  induction b generalizing xs with
  | nil => rfl
  | cons f b ih =>
    obtain ⟨x, xs, rfl⟩ := List.exists_cons_of_length_eq_add_one h
    have h' : xs.length = b.length := by simpa using h
    rw [List.zipWith_cons_cons, List.flatten_cons, cycleCount_append, cycleCount_frameCycles,
      ih h' (List.countP_cons_of_neg (by simp))]
    simp [batchCycles]

/-! ### From READY to the ACK, and from there to the end -/

/-- A TRANSFER whose header frame sampled `x`, with its ACK `k` looked at: the data phase is next, or the end by way of SEND_IDLE. -/
structure Acked (ap r : Bool) (a : BitVec 2) (d : Word) (s t : State) (x : Word) (k : BitVec 3) : Prop where
  reached : Reaches (transferInstr ap r a d) s t
  rest    : t.AtRest
  latched : t.latched (transferByte ap r a) d = true
  sampled : k = x.extractLsb' 9 3
  hdr     : t.hdr = some (buildHeader ap r a)
  hresp   : t.hresp.map (·.extractLsb' 9 3) = some k
  ack     : t.ack = some k
  rdata   : t.rdata = none
  rpar    : t.rpar = none
  trace   : t.trace = s.trace ++ batchEvents [headerFrame r (buildHeader ap r a)] [x]
  ok      : decodeAck k = .ok → t.st = if r then .sendReadData else .sendWriteData
  not_ok  : decodeAck k ≠ .ok → t.st = .sendIdle ∧ t.outcome = some (ackOutcome k)

/-- A TRANSFER from READY through its acceptance, its header and its ACK. -/
theorem transfer_acked {s : State} (hs : s.st = .ready) (hr : s.AtRest) (ap r : Bool) (a : BitVec 2) (d : Word) :
    ∃ t x k, Acked ap r a d s t x k := by
  have accepted : Reaches (transferInstr ap r a d) s (s.acceptTransfer (transferByte ap r a) d) :=
    (Reaches.refl ..).exec hr.not_busy (by rw [exec_transferInstr, runTransfer_ready hs])
  have latched : (s.acceptTransfer (transferByte ap r a) d).latched (transferByte ap r a) d = true :=
    (State.latched_iff ..).2 ⟨rfl, fun _ => rfl⟩
  obtain ⟨x, slots, draws, free, h4, sent⟩ := accepted.sendHeader ⟨hr.quiet, hr.lsb, hr.four⟩ rfl latched
  have looked := sent.awaitAck ⟨hr.quiet, hr.lsb, h4⟩ rfl latched rfl
  by_cases hk : decodeAck (ackField (headerResponse r x free)) = .ok
  · rw [if_pos hk] at looked
    exact ⟨_, x, _, looked, ⟨hr.quiet, hr.lsb, h4⟩, latched, ackField_headerResponse .., rfl, rfl, rfl, rfl, rfl, rfl,
      fun _ => rfl, fun hn => absurd hk hn⟩
  · rw [if_neg hk] at looked
    exact ⟨_, x, _, looked, ⟨hr.quiet, hr.lsb, h4⟩, latched, ackField_headerResponse .., rfl, rfl, rfl, rfl, rfl, rfl,
      fun ho => absurd ho hk, fun _ => ⟨rfl, rfl⟩⟩

theorem ackOutcome_eq_ok_iff (a : BitVec 3) : ackOutcome a = okCode ↔ decodeAck a = .ok := by
  unfold ackOutcome
  cases decodeAck a <;> decide

section
variable {ap r : Bool} {a : BitVec 2} {d : Word} {s t : State} {x : Word} {k : BitVec 3}

/-- Behind an ACK that is not OK the idle frame alone is sent (30_encoding.md rule R60). -/
theorem Acked.refused (h : Acked ap r a d s t x k) (hk : decodeAck k ≠ .ok) :
    ∃ z slots draws, Reaches (transferInstr ap r a d) s { t.afterBatch [idleFrame] [z] slots draws with st := .faulted } := by
  obtain ⟨hst, ho⟩ := h.not_ok hk
  obtain ⟨z, slots, draws, -, ended⟩ := h.reached.sendIdle h.rest hst h.latched ho
  rw [if_neg (mt (ackOutcome_eq_ok_iff k).1 hk)] at ended
  exact ⟨z, slots, draws, ended⟩

/-- The cycles of a TRANSFER whose data phase is the batch `b` (30_encoding.md rule R60). -/
theorem Acked.data_cycles (h : Acked ap r a d s t x k) {b : List Frame} {xs : List Word} (hb : xs.length = b.length) (z : Word) :
    cycleCount (t.trace ++ batchEvents b xs ++ batchEvents [idleFrame] [z]) =
      cycleCount s.trace + (if r then 12 else 13) + batchCycles b + 8 := by
  rw [cycleCount_append, cycleCount_append, h.trace, cycleCount_append, cycleCount_batchEvents hb, cycleCount_batchEvents rfl,
    cycleCount_batchEvents rfl]
  cases r <;> rfl

/-- The cycles of a TRANSFER without a data phase. -/
theorem Acked.refused_cycles (h : Acked ap r a d s t x k) (z : Word) :
    cycleCount (t.trace ++ batchEvents [idleFrame] [z]) = cycleCount s.trace + (if r then 12 else 13) + 8 := by
  rw [cycleCount_append, h.trace, cycleCount_append, cycleCount_batchEvents rfl, cycleCount_batchEvents rfl]
  cases r <;> rfl

end

/-- Settles O58: the stages of a read one after the other, with an OK ACK and with another. -/
theorem readTransferRunsToItsEnd : Obligations.ReadTransferRunsToItsEnd := by
  intro s ap a d hs hq hl h4
  have instr : (if ap then Instr.apr a d else .dpr a d) = transferInstr ap true a d := by cases ap <;> rfl
  rw [instr]
  obtain ⟨t, x, k, acked⟩ := transfer_acked hs ⟨hq, hl, h4⟩ ap true a d
  by_cases hk : decodeAck k = .ok
  · obtain ⟨s1, s2, slots, draws, h4, read⟩ := acked.reached.sendReadData acked.rest (acked.ok hk) acked.latched
    obtain ⟨z, slots', draws', -, n, hn⟩ := read.sendIdle ⟨acked.rest.quiet, acked.rest.lsb, h4⟩ rfl acked.latched rfl
    refine ⟨n, _, x, s1, s2, z, k, hn, acked.rest.quiet, acked.sampled, acked.hdr, acked.hresp, acked.ack,
      fun _ => ⟨?_, ?_, rfl, rfl, fun hp => ?_, fun hp => ?_⟩, fun hn => absurd hk hn⟩
    · exact congrArg (· ++ batchEvents readFillFrames [s1, s2] ++ batchEvents [idleFrame] [z]) acked.trace
    · exact acked.data_cycles rfl z
    · rw [if_pos hp]; exact ⟨rfl, rfl⟩
    · rw [if_neg (by simp [hp])]; exact ⟨rfl, rfl⟩
  · obtain ⟨z, slots, draws, n, hn⟩ := acked.refused hk
    refine ⟨n, _, x, 0, 0, z, k, hn, acked.rest.quiet, acked.sampled, acked.hdr, acked.hresp, acked.ack,
      fun ho => absurd ho hk, fun _ => ⟨?_, ?_, acked.rdata, acked.rpar, (acked.not_ok hk).2, rfl⟩⟩
    · exact congrArg (· ++ batchEvents [idleFrame] [z]) acked.trace
    · exact acked.refused_cycles z

/-- Settles O59: the stages of a write one after the other, with an OK ACK and with another. -/
theorem writeTransferRunsToItsEnd : Obligations.WriteTransferRunsToItsEnd := by
  intro s ap a d hs hq hl h4
  have instr : (if ap then Instr.apw a d else .dpw a d) = transferInstr ap false a d := by cases ap <;> rfl
  rw [instr]
  obtain ⟨t, x, k, acked⟩ := transfer_acked hs ⟨hq, hl, h4⟩ ap false a d
  by_cases hk : decodeAck k = .ok
  · obtain ⟨s1, s2, slots, draws, h4, written⟩ := acked.reached.sendWriteData acked.rest (acked.ok hk) acked.latched
    obtain ⟨z, slots', draws', -, n, hn⟩ := written.sendIdle ⟨acked.rest.quiet, acked.rest.lsb, h4⟩ rfl acked.latched rfl
    refine ⟨n, _, x, s1, s2, z, k, hn, acked.rest.quiet, acked.sampled, acked.hdr, acked.hresp, acked.ack, acked.rdata, acked.rpar,
      fun _ => ⟨?_, ?_, rfl, rfl⟩, fun hn => absurd hk hn⟩
    · exact congrArg (· ++ batchEvents (writeFrames d) [s1, s2] ++ batchEvents [idleFrame] [z]) acked.trace
    · exact acked.data_cycles rfl z
  · obtain ⟨z, slots, draws, n, hn⟩ := acked.refused hk
    refine ⟨n, _, x, 0, 0, z, k, hn, acked.rest.quiet, acked.sampled, acked.hdr, acked.hresp, acked.ack, acked.rdata, acked.rpar,
      fun ho => absurd ho hk, fun _ => ⟨?_, ?_, (acked.not_ok hk).2, rfl⟩⟩
    · exact congrArg (· ++ batchEvents [idleFrame] [z]) acked.trace
    · exact acked.refused_cycles z

/-! ### Line control -/

theorem cycleCount_sequence {bs : List (List Frame)} {inps : List (List Word)} (h : inps.map List.length = bs.map List.length) :
    cycleCount (List.zipWith batchEvents bs inps).flatten = (bs.map batchCycles).sum := by
  induction bs generalizing inps with
  | nil => rfl
  | cons b bs ih =>
    cases inps with
    | nil => simp at h
    | cons xs inps =>
      obtain ⟨hb, hbs⟩ := List.cons.inj h
      rw [List.zipWith_cons_cons, List.flatten_cons, cycleCount_append, cycleCount_batchEvents hb, ih hbs, List.map_cons, List.sum_cons]

section
variable {i : Instr} {c : Byte} {d : Word} {s₀ s : State} {bs : List (List Frame)} {k : Nat}

/-- SEND_SEQUENCE at batch `k` (43_line.md rule R103). -/
theorem Reaches.sendSequence (h : Reaches i s₀ s) (hi : decodeCommand c d = .ok i) (hl : isLineControl c = true) (hr : s.AtRest)
    (hs : s.st = .sendSequence) (hc : s.cmd = some c) (hseq : s.seq = some bs) (hidx : s.seqIdx = some k) {b : List Frame}
    (hb : bs[k]? = some b) (hgood : GoodBatch b) :
    ∃ xs slots draws, xs.length = b.length ∧ slots.length = fifoDepth ∧ Reaches i s₀ (
      if k + 1 = bs.length then
        { s.afterBatch b xs slots draws with seqIdx := some (k + 1), outcome := some okCode, st := .done }
      else { s.afterBatch b xs slots draws with seqIdx := some (k + 1) }) := by
  have stage : Exchanging i b _ s := fun t ht => by
    rw [exec_latchedSequence (by simp [ht.st, hs]) hl hi (ht.cmd.trans hc)]
    simp only [sequenceStage, ht.st, hs, Machine.sendSequence, ht.seq, hseq, ht.seqIdx, hidx, hb]
    rfl
  obtain ⟨n, xs, slots, draws, hx, h4, hn⟩ := exchange_runs hgood hr.not_busy hr stage.exec stage
  refine ⟨xs, slots, draws, hx, h4, h.trans ⟨n, hn.trans ?_⟩⟩
  split <;> rfl

/-- SEND_SEQUENCE from batch `k` to the end. -/
theorem Reaches.sequence (h : Reaches i s₀ s) (hi : decodeCommand c d = .ok i) (hl : isLineControl c = true) (hr : s.AtRest)
    (hs : s.st = .sendSequence) (hc : s.cmd = some c) (hseq : s.seq = some bs) (hidx : s.seqIdx = some k)
    (hgood : ∀ b ∈ bs, GoodBatch b) {rest : List (List Frame)} (hrest : bs.drop k = rest) (hne : rest ≠ []) :
    ∃ inps slots count draws, inps.map List.length = rest.map List.length ∧ Reaches i s₀ { s with
      slots := slots, count := count, trace := s.trace ++ (List.zipWith batchEvents rest inps).flatten, draws := draws,
      seqIdx := some bs.length, outcome := some okCode, st := .done } := by
  induction rest generalizing k s with
  | nil => contradiction
  | cons b rest ih =>
    have hb : bs[k]? = some b := by rw [← List.head?_drop, hrest, List.head?_cons]
    have left : bs.length - k = rest.length + 1 := by rw [← List.length_drop, hrest, List.length_cons]
    have hrest' : bs.drop (k + 1) = rest := by rw [← List.tail_drop, hrest, List.tail_cons]
    obtain ⟨xs, slots, draws, hx, h4, sent⟩ := h.sendSequence hi hl hr hs hc hseq hidx hb (hgood b (List.mem_of_getElem? hb))
    cases rest with
    | nil =>
      have last : k + 1 = bs.length := by rw [List.length_nil] at left; omega
      rw [if_pos last] at sent
      refine ⟨[xs], slots, b.length, draws, by simp [hx], ?_⟩
      simpa [State.afterBatch, last] using sent
    | cons b' rest =>
      have more : k + 1 ≠ bs.length := by rw [List.length_cons] at left; omega
      rw [if_neg more] at sent
      obtain ⟨inps, slots', count, draws', hlen, ended⟩ := ih sent ⟨hr.quiet, hr.lsb, h4⟩ hs hc hseq rfl hrest' (by simp)
      refine ⟨xs :: inps, slots', count, draws', by simp [hx, hlen], ?_⟩
      simpa [State.afterBatch] using ended

end

theorem sequenceOf_ne_nil (c : Byte) : sequenceOf c ≠ [] := by
  unfold sequenceOf
  split
  · decide
  · split <;> decide

/-- Settles O60: acceptance, then all batches of the command word's sequence. -/
theorem lineControlRunsToItsEnd : Obligations.LineControlRunsToItsEnd := by
  intro s d i c cycles hs hq hl h4 hmem
  obtain ⟨hi, hlc, hcycles⟩ :
      decodeCommand c d = .ok i ∧ isLineControl c = true ∧ ((sequenceOf c).map batchCycles).sum = cycles := by
    simp only [List.mem_cons, Prod.mk.injEq, List.not_mem_nil, or_false] at hmem
    rcases hmem with ⟨rfl, rfl, rfl⟩ | ⟨rfl, rfl, rfl⟩ | ⟨rfl, rfl, rfl⟩ <;> exact ⟨rfl, rfl, rfl⟩
  have rest : s.AtRest := ⟨hq, hl, h4⟩
  have accepted : Reaches i s (s.acceptSequence c d (sequenceOf c)) := by
    refine (Reaches.refl ..).exec rest.not_busy ((exec_ready hs hi).trans ?_)
    rw [(lineControl_excludes hlc).2]
    rfl
  obtain ⟨inps, slots, count, draws, hlen, n, hn⟩ :=
    accepted.sequence hi hlc ⟨hq, hl, h4⟩ rfl rfl rfl rfl (goodBatch_sequence c) List.drop_zero (sequenceOf_ne_nil c)
  refine ⟨n, _, inps, hn, hq, rfl, rfl, rfl, rfl, rfl, rfl, rfl, hlen, rfl, ?_⟩
  rw [State.acceptSequence_trace, cycleCount_append, cycleCount_sequence hlen, hcycles]

/-! ### The header rows -/

/-- A header frame is pushed as it stands: its pad bits are 0 (30_encoding.md rule R55). -/
theorem headerFrame_pushed (r : Bool) (h : Byte) : (headerFrame r h).pushed = headerFrame r h := by
  have fits : 8 ≤ (headerFrame r h).len.toNat := by
    cases r
    exacts [(by decide : 8 ≤ hdrFrameBitsWrite.toNat), (by decide : 8 ≤ hdrFrameBitsRead.toNat)]
  have word : lowBits (h.setWidth 32) (headerFrame r h).len = h.setWidth 32 := by
    refine BitVec.eq_of_getLsbD_eq fun i _ => ?_
    rw [getLsbD_lowBits, BitVec.getLsbD_setWidth]
    by_cases hi : i < (headerFrame r h).len.toNat
    · simp [hi]
    · simp [BitVec.getLsbD_of_ge h i (by omega)]
  exact congrArg (Frame.mk · _) word

/-- A header row whose byte is due, with an idle peripheral and room for a word. -/
theorem exec_headerRow {s : State} {h : Byte} {ap r : Bool} {a : BitVec 2} (hp : s.phase = .call) (hl : s.bitOrder = .lsbFirst)
    (h4 : s.slots.length = fifoDepth) (hq : s.txq = []) (hsh : s.shifter = none) (hr : s.rxq.length ≤ 3)
    (hdue : s.headerDue = some h) (hh : h = buildHeader ap r a) :
    exec (headerInstr ap r a (headerParity ap r a)) s =
      .next (({ s with hdr := some h } : State).afterPush [headerFrame r h]) := by
  subst hh
  have push := exchange_push (s := { s with hdr := some (buildHeader ap r a) }) (goodBatch_header r (buildHeader ap r a)) hp hl h4 hq hsh
    (Nat.succ_le_succ hr)
  rw [exec_headerInstr, runHeader, ← buildHeader, if_pos hdue]
  exact congrArg (onExchange · _) push

/-- Settles O31: each row is the header row of its request, and the frame's length is the request's RnW. -/
theorem headerRowsSendTheirByte : Obligations.HeaderRowsSendTheirByte := by
  intro s h hp hl h4 hq hsh hr hdue sent
  have row : ∀ (ap r : Bool) (a : BitVec 2), h = buildHeader ap r a →
      ∃ t, exec (headerInstr ap r a (headerParity ap r a)) s = .next t ∧ sent (headerFrame r h).len t := fun ap r a hh =>
    ⟨_, exec_headerRow hp hl h4 hq hsh hr hdue hh, rfl, congrArg (fun f => [f]) (headerFrame_pushed r h), rfl,
      (headerDue_some hdue).1, rfl⟩
  exact ⟨row false true, row false false, row true true, row true false⟩

end Sys2Proof.Machine
end

section
/-! ## One call of an exchange

What the call checks, what the push writes and what the capture takes (40_transport.md rules R65 to R73). -/

namespace Sys2Proof.Machine

/-- Settles O16: the capture gives the low bits of what was sampled. -/
theorem captureReturnsTheSampledBits : Obligations.CaptureReturnsTheSampledBits := by
  intro len got pad i _
  rw [captureShift_rawWord, getLsbD_lowBits, Bool.and_comm]

theorem frameLenOk_eq_false_iff (len : BitVec 5) : frameLenOk len = false ↔ len.toNat = 0 ∨ 24 < len.toNat := by
  rw [← Bool.not_eq_true, frameLenOk_iff]
  omega

/-- Settles O18: the bit order is looked at first (40_transport.md rule R65). -/
theorem illFormedExchangeIsRefused : Obligations.IllFormedExchangeIsRefused := by
  refine fun fs s hp => ⟨fun hl => ?_, fun hl ⟨f, hf, hlen⟩ => ?_⟩
  · simp only [exchange, hp, hl, if_true]
  · have bad : fs.all (fun f => frameLenOk f.len) = false :=
      List.all_eq_false.2 ⟨f, hf, by simp [(frameLenOk_eq_false_iff f.len).2 hlen]⟩
    simp only [exchange, hp, hl, bad, reduceCtorEq, if_false, if_true]

theorem frames_ok {fs : List Frame} (h : ∀ f ∈ fs, 1 ≤ f.len.toNat ∧ f.len.toNat ≤ 24) : ∀ f ∈ fs, frameLenOk f.len = true :=
  fun f hf => (frameLenOk_iff f.len).2 (h f hf)

/-- A batch that finds too little room in a queue (40_transport.md rule R68). -/
theorem exchange_capacity {fs : List Frame} {s : State} (hp : s.phase = .call) (hl : s.bitOrder = .lsbFirst)
    (hf : ∀ f ∈ fs, frameLenOk f.len = true) (h : fs.length > 4 - s.txq.length ∨ fs.length > 4 - s.rxq.length) :
    exchange fs s = .capacity (s.populate fs) := by
  rw [exchange_call fs s hp hl hf]
  exact if_pos h

/-- The slots' `rx` is not the batch's to write (10_state.md rule R24). -/
theorem State.populate_rx (s : State) (fs : List Frame) : (s.populate fs).slots.map Slot.rx = s.slots.map Slot.rx := by
  unfold State.populate
  split
  · exact populateSlots_rx ..
  · rfl

theorem State.populate_frame (s : State) (fs : List Frame) :
    s.populate fs = { s with slots := (s.populate fs).slots, count := (s.populate fs).count } := by
  unfold State.populate
  split <;> rfl

/-- Settles O17: CAPACITY leaves the populated state, which is the caller's but for the outgoing parts of the slots and the count. -/
theorem capacityErrorChangesNothing : Obligations.CapacityErrorChangesNothing := fun fs s hp hl hf hfull =>
  ⟨s.populate fs, exchange_capacity hp hl (frames_ok hf) hfull, s.populate_rx fs, s.populate_frame fs⟩

/-! ### The push -/

@[simp] theorem populateSlots_nil (slots : List Slot) : populateSlots [] slots = slots := by
  cases slots <;> rfl

@[simp] theorem invalidateRx_zero (slots : List Slot) : invalidateRx 0 slots = slots := by
  cases slots <;> rfl

@[simp] theorem populateSlots_drop (fs : List Frame) (slots : List Slot) :
    (populateSlots fs slots).drop fs.length = slots.drop fs.length := by
  induction fs generalizing slots with
  | nil => simp
  | cons f fs ih => cases slots with
    | nil => rfl
    | cons sl rest => exact ih rest

@[simp] theorem invalidateRx_drop (n : Nat) (slots : List Slot) : (invalidateRx n slots).drop n = slots.drop n := by
  induction n generalizing slots with
  | zero => simp
  | succ n ih => cases slots with
    | nil => rfl
    | cons sl rest => exact ih rest

/-- What is pushed for a batch is the batch's low bits, in slot order (40_transport.md rule R70). -/
theorem queuedInOrder_pushed (fs : List Frame) : QueuedInOrder fs (fs.map Frame.pushed) := by
  refine ⟨List.length_map .., fun k f g hf hg => ?_⟩
  rw [List.getElem?_map, hf, Option.map_some, Option.some.injEq] at hg
  subst hg
  exact ⟨rfl, fun i => by rw [Frame.pushed, getLsbD_lowBits, Bool.and_comm]⟩

/-- `t` is `s` with the batch `fs` pushed, said as `Obligations.CallPushesTheBatchInOrder` says it. -/
def Pushed (fs : List Frame) (s t : State) : Prop :=
  QueuedInOrder fs t.txq ∧ BatchInSlots fs t ∧ t.slots.drop fs.length = s.slots.drop fs.length ∧
    t = { s with trace := s.trace ++ [.gap], txq := t.txq, slots := t.slots, count := t.count, phase := .waitDone }

/-- The push, from `s` itself or from `s` with the batch written into the slots. -/
theorem pushBatch_pushed {fs : List Frame} {s u : State} (hne : fs ≠ []) (hq : s.txq = []) (hb : BatchInSlots fs u)
    (behind : u.slots.drop fs.length = s.slots.drop fs.length) (hu : u = { s with slots := u.slots, count := u.count }) :
    ∃ t, pushBatch u = .pending t ∧ Pushed fs s t := by
  obtain ⟨count, out⟩ := hb
  have hq' : u.txq = [] := by rw [hu]; exact hq
  refine ⟨_, pushBatch_eq u fs count hne out, ?_, ⟨count, ?_⟩, ?_, ?_⟩
  · simpa [hq'] using queuedInOrder_pushed fs
  · rw [List.map_take]
    exact (congrArg (List.take u.count) (invalidateRx_out u.count u.slots)).trans (List.map_take.symm.trans out)
  · rw [count, invalidateRx_drop, behind]
  · rw [hu]

theorem populate_batch {fs : List Frame} {s : State} (hfit : fs.length ≤ 4) (h4 : s.slots.length = 4) :
    BatchInSlots fs (s.populate fs) ∧ (s.populate fs).slots.drop fs.length = s.slots.drop fs.length := by
  rw [BatchInSlots, s.populate_count fs hfit, s.populate_slots fs hfit, populateSlots_drop]
  exact ⟨⟨rfl, populateSlots_out fs s.slots (h4 ▸ hfit)⟩, rfl⟩

/-- A call with room for the batch in both queues. -/
theorem exchange_room {fs : List Frame} {s : State} (hp : s.phase = .call) (hl : s.bitOrder = .lsbFirst)
    (hf : ∀ f ∈ fs, frameLenOk f.len = true) (htx : fs.length ≤ 4 - s.txq.length) (hrx : fs.length ≤ 4 - s.rxq.length) :
    exchange fs s = if s.busy then .pending { s.populate fs with phase := .waitPush } else pushBatch (s.populate fs) := by
  rw [exchange_call fs s hp hl hf]
  exact if_neg (not_or.2 ⟨Nat.not_lt.2 htx, Nat.not_lt.2 hrx⟩)

/-- While the peripheral is busy an exchange that has been called holds (40_transport.md rule R69). -/
theorem exchange_busy_wait {fs : List Frame} {s : State} (hp : s.phase ≠ .call) (hb : s.busy = true) :
    exchange fs s = .pending s := by
  unfold exchange
  split
  · contradiction
  · exact if_pos hb
  · exact if_pos hb

theorem exchange_waitPush_idle (fs : List Frame) {s : State} (hp : s.phase = .waitPush) (hb : s.busy = false) :
    exchange fs s = pushBatch s := by
  simp [exchange, hp, hb]

theorem pushBatch_empty {s : State} (h : s.count = 0) : pushBatch s = .done { s with phase := .call } [] := if_pos h

/-- Settles O19: the call with room, at once or in a wait, and the push behind the wait. -/
theorem callPushesTheBatchInOrder : Obligations.CallPushesTheBatchInOrder := by
  intro fs s hl h4 hlen pushed
  have hf := frames_ok hlen
  refine ⟨fun hp hb hne hroom => ?_, fun hp hb htx hrx => ?_, fun hp hb => exchange_busy_wait (by simp [hp]) hb,
    fun hp hb hslots hne => ?_, fun hnil hb => ⟨fun hp => ?_, fun hp hc => ?_⟩⟩
  · obtain ⟨hq, -⟩ := s.not_busy_iff.1 hb
    obtain ⟨batch, behind⟩ := populate_batch (fs := fs) (by omega) h4
    rw [exchange_room hp hl hf (by rw [hq, List.length_nil]; omega) (by omega), if_neg (by simp [hb])]
    exact pushBatch_pushed hne hq batch behind (s.populate_frame fs)
  · obtain ⟨batch, behind⟩ := populate_batch (fs := fs) (by omega) h4
    exact ⟨{ s.populate fs with phase := .waitPush }, (exchange_room hp hl hf htx hrx).trans (if_pos hb), batch, behind,
      s.populate_rx fs, congrArg (fun u : State => { u with phase := .waitPush }) (s.populate_frame fs)⟩
  · rw [exchange_waitPush_idle fs hp hb]
    exact pushBatch_pushed hne (s.not_busy_iff.1 hb).1 hslots rfl rfl
  · subst hnil
    have populated : s.populate [] = { s with count := 0 } := by simp [State.populate]
    rw [exchange_room hp hl hf (Nat.zero_le _) (Nat.zero_le _), if_neg (by simp [hb]), populated, pushBatch_empty rfl, ← hp]
  · rw [exchange_waitPush_idle fs hp hb, pushBatch_empty hc]

/-! ### The capture -/

/-- A capture, slot by slot: what the raw words give the first `n` slots (40_transport.md rules R72 and R73). -/
def CapturedInOrder (n : Nat) (slots slots' : List Slot) (raws samples : List Word) : Prop :=
  ∀ k sl len raw, k < n → slots[k]? = some sl → sl.len = some len → raws[k]? = some raw →
    samples[k]? = some (captureShift raw len) ∧ slots'[k]? = some { sl with rx := some (captureShift raw len) }

theorem captureSlots_cons {n : Nat} {sl : Slot} {len : BitVec 5} (h : sl.len = some len) (rest : List Slot) (raw : Word)
    (raws : List Word) : captureSlots (n + 1) (sl :: rest) (raw :: raws) = (captureSlots n rest raws).map fun (slots, left, samples) =>
      ({ sl with rx := some (captureShift raw len) } :: slots, left, captureShift raw len :: samples) := by
  simp only [captureSlots, h]
  cases captureSlots n rest raws <;> rfl

theorem captureSlots_short {n : Nat} {slots : List Slot} {raws : List Word} (hn : n ≤ slots.length)
    (hlen : ∀ sl ∈ slots.take n, sl.len ≠ none) (hr : raws.length < n) : captureSlots n slots raws = .error .captureShort := by
  induction n generalizing slots raws with
  | zero => simp at hr
  | succ n ih =>
    cases slots with
    | nil => rfl
    | cons sl rest =>
      cases raws with
      | nil => rfl
      | cons raw raws =>
        rw [List.take_succ_cons, List.forall_mem_cons] at hlen
        obtain ⟨len, hl⟩ := Option.ne_none_iff_exists'.1 hlen.1
        rw [captureSlots_cons hl, ih (by simpa using hn) hlen.2 (by simpa using hr)]
        rfl

theorem captureSlots_inOrder {n : Nat} {slots : List Slot} {raws : List Word} (hn : n ≤ slots.length)
    (hlen : ∀ sl ∈ slots.take n, sl.len ≠ none) (hr : n ≤ raws.length) :
    ∃ slots' samples, captureSlots n slots raws = .ok (slots', raws.drop n, samples) ∧ samples.length = n ∧
      slots'.drop n = slots.drop n ∧ CapturedInOrder n slots slots' raws samples := by
  induction n generalizing slots raws with
  | zero => exact ⟨slots, [], rfl, rfl, rfl, fun k sl len raw hk => by simp at hk⟩
  | succ n ih =>
    obtain ⟨sl, rest, rfl⟩ := List.exists_cons_of_ne_nil (List.length_pos_iff.1 (Nat.zero_lt_of_lt hn))
    obtain ⟨raw, raws, rfl⟩ := List.exists_cons_of_ne_nil (List.length_pos_iff.1 (Nat.zero_lt_of_lt hr))
    rw [List.take_succ_cons, List.forall_mem_cons] at hlen
    obtain ⟨len, hl⟩ := Option.ne_none_iff_exists'.1 hlen.1
    obtain ⟨slots', samples, hc, hs, behind, inOrder⟩ := ih (Nat.le_of_succ_le_succ hn) hlen.2 (Nat.le_of_succ_le_succ hr)
    refine ⟨{ sl with rx := some (captureShift raw len) } :: slots', captureShift raw len :: samples,
      by rw [captureSlots_cons hl, hc]; rfl, congrArg (· + 1) hs, behind, fun k sl' len' raw' hk hsl hl' hraw => ?_⟩
    cases k with
    | zero =>
      cases hsl
      cases hraw
      cases hl.symm.trans hl'
      exact ⟨rfl, rfl⟩
    | succ k => exact inOrder k sl' len' raw' (Nat.lt_of_succ_lt_succ hk) hsl hl' hraw

/-- Settles O20: the capture after the wait, with too few raw words and with enough. -/
theorem captureFillsTheSlotsInOrder : Obligations.CaptureFillsTheSlotsInOrder := by
  intro fs s hp hb hn hlen
  have capture : exchange fs s = captureBatch s := by simp [exchange, hp, hb]
  rw [capture, captureBatch]
  refine ⟨fun hr => by rw [captureSlots_short hn hlen hr], fun hr => ?_⟩
  obtain ⟨slots, samples, hc, hs, behind, inOrder⟩ := captureSlots_inOrder hn hlen hr
  exact ⟨{ s with slots := slots, rxq := s.rxq.drop s.count, phase := .call }, samples, by rw [hc], hs, rfl, behind, inOrder, rfl⟩

end Sys2Proof.Machine
end

section
/-! ## The peripheral drains

What any number of the peripheral's moves leaves, and how many there can be (40_transport.md rules R69 and R71). -/

namespace Sys2Proof.Machine

/-- Settles O23: the frame of a peripheral's move. -/
theorem peripheralTouchesNoRegister : Obligations.PeripheralTouchesNoRegister := fun _ _ h => tick_frame h

/-- Settles O21: the raw word's top bits are what the capture shift brings down. -/
theorem peripheralShiftsAWordOut : Obligations.PeripheralShiftsAWordOut := by
  intro s f rest hs hq hf hr
  obtain ⟨raw, draws, hword⟩ := Clocks.word hs hq hf hr
  refine ⟨_, captureShift raw f.len, raw, hword.tickN, rfl, fun i _ => ?_, ?_⟩
  · rw [captureShift, BitVec.getLsbD_ushiftRight]
  · rw [State.received, ← hs]

/-- How many moves the peripheral needs for what it holds: one to load a word, and one for each bit. -/
def State.movesLeft (s : State) : Nat := batchMoves s.txq + (s.shifter.map fun sh => sh.len.toNat - sh.k).getD 0

/-- A peripheral with room for all the words it holds moves: the one in its shifter finds a place in the receive queue. -/
theorem tick_of_room {s : State} (h : TransportOk s) (hw : s.wordsHeld ≤ fifoDepth) : ∃ t, tick s = .next t := by
  refine (tick_moves s h.txq_frames h.shifter_frame).resolve_right fun ⟨_, full, shifting⟩ => ?_
  have one : s.shifter.isSome = true := Option.isSome_iff_ne_none.2 shifting
  simp only [State.wordsHeld, one, Bool.toNat_true] at hw
  omega

/-- A busy peripheral that moves has a move less to make. -/
theorem tick_movesLeft {s t : State} (hb : s.busy = true) (ht : tick s = .next t) : s.movesLeft = t.movesLeft + 1 := by
  rcases tick_next ht with ⟨hs, hq, -⟩ | ⟨f, rest, hs, hq, -, rfl⟩ | ⟨sh, hs, -, hk, rfl⟩ | ⟨sh, hs, -, hk, -, rfl⟩
  · simp [s.not_busy_iff.2 ⟨hq, hs⟩] at hb
  · simp [State.movesLeft, hs, hq, batchMoves]; omega
  · simp [State.movesLeft, hs, Shifter.clocked]; omega
  · simp [State.movesLeft, hs, Shifter.clocked]; omega

/-- At most 25 moves a word: its load and 24 bits (40_transport.md rule R66). -/
theorem movesLeft_le {s : State} (h : TransportOk s) : s.movesLeft ≤ 25 * (s.txq.length + 1) := by
  have queued : batchMoves s.txq ≤ s.txq.length * 25 := by
    have word : ∀ m ∈ s.txq.map fun f => f.len.toNat + 1, m ≤ 25 := by
      intro m hm
      obtain ⟨f, hf, rfl⟩ := List.mem_map.1 hm
      exact Nat.succ_le_succ ((frameLenOk_iff _).1 (h.txq_frames f hf)).2
    have sum := List.sum_le_card_nsmul _ 25 word
    rwa [List.length_map, smul_eq_mul] at sum
  have shifting : (s.shifter.map fun sh => sh.len.toNat - sh.k).getD 0 ≤ 25 := by
    cases hs : s.shifter with
    | none => simp
    | some sh =>
      have len := ((frameLenOk_iff _).1 (h.shifter_frame sh hs).1).2
      simp only [Option.map_some, Option.getD_some]
      omega
  rw [State.movesLeft]
  omega

/-- A peripheral with room for its words comes to rest (40_transport.md rule R69). -/
theorem Clocks.drain {s : State} (h : TransportOk s) (hw : s.wordsHeld ≤ fifoDepth) :
    ∃ n t, n ≤ s.movesLeft ∧ Clocks n s t ∧ t.busy = false := by
  cases hb : s.busy with
  | false => exact ⟨0, s, Nat.zero_le _, .refl s, hb⟩
  | true =>
    obtain ⟨t, ht⟩ := tick_of_room h hw
    have left := tick_movesLeft hb ht
    obtain ⟨n, u, hn, hclocks, hu⟩ := Clocks.drain (tick_transportOk h ht) (tick_wordsHeld ht ▸ hw)
    exact ⟨n + 1, u, by omega, .head hb ht hclocks, hu⟩
termination_by s.movesLeft
decreasing_by omega

theorem Clocks.frame {n : Nat} {s t : State} (h : Clocks n s t) :
    t = { s with txq := t.txq, shifter := t.shifter, rxq := t.rxq, trace := t.trace, draws := t.draws } := by
  induction h with
  | refl s => rfl
  | head _ ht _ ih =>
    refine ih.trans ?_
    rw [tick_frame ht]

theorem Clocks.wordsHeld {n : Nat} {s t : State} (h : Clocks n s t) : t.wordsHeld = s.wordsHeld := by
  induction h with
  | refl s => rfl
  | head _ ht _ ih => rw [ih, tick_wordsHeld ht]

/-- A raw word is handed over behind those already received. -/
theorem tick_rxq {s t : State} (h : tick s = .next t) : s.rxq <+: t.rxq := by
  rcases tick_next h with ⟨-, -, rfl⟩ | ⟨f, rest, -, -, -, rfl⟩ | ⟨sh, -, -, -, rfl⟩ | ⟨sh, -, -, -, -, rfl⟩
  · exact List.prefix_rfl
  · exact List.prefix_rfl
  · exact List.prefix_rfl
  · exact List.prefix_append _ _

theorem Clocks.rxq {n : Nat} {s t : State} (h : Clocks n s t) : s.rxq <+: t.rxq := by
  induction h with
  | refl s => exact List.prefix_rfl
  | head _ ht _ ih => exact (tick_rxq ht).trans ih

/-- Settles O56: at rest all words held are raw ones. -/
theorem peripheralDrainsInBoundedMoves : Obligations.PeripheralDrainsInBoundedMoves := by
  intro s h hw
  obtain ⟨n, t, hn, hclocks, idle⟩ := Clocks.drain h.transportOk hw
  obtain ⟨raws, hraws⟩ := hclocks.rxq
  obtain ⟨hq, hs⟩ := t.not_busy_iff.1 idle
  refine ⟨n, t, raws, hn.trans (movesLeft_le h.transportOk), hclocks.tickN, idle, ?_, ?_⟩
  · rw [← List.length_append, hraws, ← wordsHeld_of_not_busy idle, hclocks.wordsHeld]
  · rw [hraws, ← hq, ← hs]
    exact hclocks.frame

end Sys2Proof.Machine
end

section
/-! ## The stage of a sending state

One equation for the five sending states (42_engine.md rules R87 to R92, 43_line.md rule R103): the stage exchanges the batch due, and what
it does with the samples touches registers alone. -/

namespace Sys2Proof.Machine

/-- `t` is `s` but for the engine's state, the latched command and the results. -/
def OnlyRegisters (s t : State) : Prop :=
  t = { s with st := t.st, cmd := t.cmd, wdata := t.wdata, hdr := t.hdr, hresp := t.hresp, ack := t.ack, rdata := t.rdata,
               rpar := t.rpar, outcome := t.outcome, seq := t.seq, seqIdx := t.seqIdx }

/-- From `s` to `t` no outcome TRANSPORT_CAPACITY appears (60_exceptions.md rule R108). -/
def NoNewCapacityError (s t : State) : Prop :=
  t.outcome = some AbortCode.transportCapacity.code → s.outcome = some AbortCode.transportCapacity.code

theorem NoNewCapacityError.of_eq {s t : State} (h : t.outcome = s.outcome) : NoNewCapacityError s t := fun ht => h ▸ ht

theorem NoNewCapacityError.of_code {s t : State} (o : BitVec 3) (ht : t.outcome = some o)
    (ho : o ≠ AbortCode.transportCapacity.code) : NoNewCapacityError s t :=
  fun h => absurd (Option.some.inj (ht.symm.trans h)) ho

/-- What a stage does with the samples of its exchange: it writes registers, and no capacity error among them. -/
def FinishesStage (k : State → List Word → Host.Outcome State Fault Refusal) : Prop :=
  ∀ u xs t, k u xs = .next t → OnlyRegisters u t ∧ NoNewCapacityError u t

/-- The state from which the stage of the TRANSFER `c` calls its exchange: SEND_HEADER has written `hdr` (42_engine.md rule R87). -/
def State.sending (s : State) (c : Byte) : State :=
  { s with hdr := if s.st = .sendHeader then some (headerOfCommand c) else s.hdr }

theorem State.sending_of_st_ne {s : State} (h : s.st ≠ .sendHeader) (c : Byte) : s.sending c = s := by
  simp [State.sending, h]

theorem State.sending_sendHeader {s : State} (h : s.st = .sendHeader) (c : Byte) :
    s.sending c = { s with hdr := some (headerOfCommand c) } := by
  simp [State.sending, h]

theorem sendHeader_exchanges (r : Bool) (hdr : Byte) (s : State) : ∃ k, FinishesStage k ∧
    sendHeader r hdr s = onExchange (exchange [headerFrame r hdr] { s with hdr := some hdr }) k := by
  refine ⟨_, fun u xs t h => ?_, rfl⟩
  split at h
  · cases h; exact ⟨rfl, .of_eq rfl⟩
  · simp at h

theorem sendReadData_exchanges (s : State) : ∃ k, FinishesStage k ∧ sendReadData s = onExchange (exchange readFillFrames s) k := by
  refine ⟨_, fun u xs t h => ?_, rfl⟩
  split at h
  · split at h <;> cases h
    · exact ⟨rfl, .of_code okCode rfl (by decide)⟩
    · exact ⟨rfl, .of_code AbortCode.parityMismatch.code rfl (by decide)⟩
  · simp at h

theorem sendWriteData_exchanges {s : State} {d : Word} (hd : s.readWdata = .ok d) : ∃ k, FinishesStage k ∧
    sendWriteData s = onExchange (exchange (writeFrames d) s) k := by
  simp only [sendWriteData, hd]
  refine ⟨_, fun u xs t h => ?_, rfl⟩
  cases h
  exact ⟨rfl, .of_code okCode rfl (by decide)⟩

theorem sendIdle_exchanges (s : State) : ∃ k, FinishesStage k ∧ sendIdle s = onExchange (exchange [idleFrame] s) k := by
  refine ⟨_, fun u xs t h => ?_, rfl⟩
  split at h
  · simp at h
  · cases h; exact ⟨rfl, .of_eq rfl⟩

theorem sendSequence_exchanges {s : State} {batches : List (List Frame)} {k : Nat} {b : List Frame} (hq : s.seq = some batches)
    (hk : s.seqIdx = some k) (hb : batches[k]? = some b) : ∃ k, FinishesStage k ∧
    sendSequence s = onExchange (exchange b s) k := by
  simp only [sendSequence, hq, hk, hb]
  refine ⟨_, fun u xs t h => ?_, rfl⟩
  split at h <;> cases h
  · exact ⟨rfl, .of_code okCode rfl (by decide)⟩
  · exact ⟨rfl, .of_eq rfl⟩

/-- The stage of the command `c` takes `s` to `t` by an exchange of the batch due. -/
def SendsBatch (c : Byte) (s t : State) : Prop :=
  ∃ b k, s.dueBatch = some b ∧ FinishesStage k ∧ onExchange (exchange b (s.sending c)) k = .next t

/-- A stage that exchanges the batch due, but for SEND_HEADER, whose exchange starts from another state. -/
theorem SendsBatch.of_stage {s t : State} {b : List Frame} {stage : Host.Outcome State Fault Refusal}
    (hx : ∃ k, FinishesStage k ∧ stage = onExchange (exchange b s) k) (h : stage = .next t) (hs : s.st ≠ .sendHeader)
    (hb : s.dueBatch = some b) (c : Byte) : SendsBatch c s t := by
  obtain ⟨k, hk, hx⟩ := hx
  exact ⟨b, k, hb, hk, by rw [State.sending_of_st_ne hs, ← hx, h]⟩

/-- All that a stage can do when it answers a next state: exchange the batch due, look at the ACK, or nothing. -/
theorem commandStage_next {s t : State} {c : Byte} (hc : s.cmd = some c) (h : commandStage c s = .next t) :
    SendsBatch c s t ∨ (s.st = .awaitAck ∧ awaitAck (fieldRnW c) s = .next t) ∨ (s.inProgress = false ∧ t = s) := by
  unfold commandStage at h
  split at h
  · rcases transferStage_next h with ⟨hs, h⟩ | ⟨hs, h⟩ | ⟨hs, -, h⟩ | ⟨hs, -, h⟩ | ⟨hs, h⟩ | ⟨hp, rfl⟩
    · obtain ⟨k, hk, hx⟩ := sendHeader_exchanges (fieldRnW c) (headerOfCommand c) s
      exact .inl ⟨_, k, dueBatch_sendHeader hs hc, hk, by rw [State.sending_sendHeader hs, ← hx]; exact h⟩
    · exact .inr (.inl ⟨hs, h⟩)
    · exact .inl (.of_stage (sendReadData_exchanges s) h (by simp [hs]) (dueBatch_sendReadData hs) c)
    · obtain ⟨d, hd, -⟩ := sendWriteData_next h
      exact .inl (.of_stage (sendWriteData_exchanges hd) h (by simp [hs]) (dueBatch_sendWriteData hs hd) c)
    · exact .inl (.of_stage (sendIdle_exchanges s) h (by simp [hs]) (dueBatch_sendIdle hs) c)
    · exact .inr (.inr ⟨hp, rfl⟩)
  · rcases sequenceStage_next h with ⟨hs, h⟩ | ⟨hp, rfl⟩
    · obtain ⟨batches, k, b, hq, hk, hb, -⟩ := sendSequence_next h
      exact .inl (.of_stage (sendSequence_exchanges hq hk hb) h (by simp [hs]) ((dueBatch_sendSequence hs hq hk).trans hb) c)
    · exact .inr (.inr ⟨hp, rfl⟩)

/-- A state with a batch due is in mid-command, and not in AWAIT_ACK. -/
theorem State.inProgress_of_dueBatch {s : State} {b : List Frame} (hb : s.dueBatch = some b) :
    s.inProgress = true ∧ s.st ≠ .awaitAck := by
  rw [s.inProgress_iff]
  refine ⟨⟨fun hs => ?_, fun hs => ?_, fun hs => ?_⟩, fun hs => ?_⟩ <;> rw [dueBatch_eq_none (by simp [hs])] at hb <;> simp at hb

/-- Under the invariant the batch due is one that an exchange takes. -/
theorem Inv.goodBatch {s : State} (h : Inv s) {b : List Frame} (hb : s.dueBatch = some b) : GoodBatch b := by
  have hstage := h.stage
  unfold StageOk at hstage
  split at hstage <;> rename_i hs
  case h_2 =>
    obtain ⟨c, hc, -⟩ := hstage
    cases (dueBatch_sendHeader hs hc).symm.trans hb
    exact goodBatch_header ..
  case h_4 =>
    cases (dueBatch_sendReadData hs).symm.trans hb
    exact goodBatch_readFill
  case h_5 =>
    obtain ⟨c, a, hc, ht, hw, -⟩ := hstage
    obtain ⟨d, hd⟩ := h.wdata_some hc
    cases (dueBatch_sendWriteData hs ((s.readWdata_ok_iff d).2 ⟨hd, c, hc, (usesWdata_iff c).2 ⟨ht, hw⟩⟩)).symm.trans hb
    exact goodBatch_write d
  case h_6 =>
    cases (dueBatch_sendIdle hs).symm.trans hb
    exact goodBatch_idle
  case h_7 =>
    obtain ⟨c, k, -, -, -, hq, hk, -⟩ := hstage
    rw [dueBatch_sendSequence hs hq hk] at hb
    exact goodBatch_sequence c b (List.mem_of_getElem? hb)
  all_goals rw [dueBatch_eq_none (by simp [hs])] at hb; simp at hb

/-- Under the invariant the stage of a state with a batch due exchanges that batch. -/
theorem Inv.sendsBatch {s : State} (h : Inv s) {c : Byte} {b : List Frame} (hc : s.cmd = some c) (hb : s.dueBatch = some b) :
    ∃ k t, Machine.commandStage c s = .next t ∧ Machine.onExchange (exchange b (s.sending c)) k = .next t := by
  obtain ⟨hp, hna⟩ := State.inProgress_of_dueBatch hb
  obtain ⟨t, ht, -⟩ := h.commandStage hp hc
  rcases commandStage_next hc ht with ⟨b', k, hb', -, hx⟩ | ⟨hs, -⟩ | ⟨hp', -⟩
  · cases hb'.symm.trans hb
    exact ⟨k, t, ht, hx⟩
  · contradiction
  · simp [hp] at hp'

/-- An encoded command decodes to what was encoded (30_encoding.md rule R50). -/
theorem decodeCommand_of_encode {i : Instr} {c : Byte} {d : Word} (h : encode i = .command c d) : decodeCommand c d = .ok i := by
  have wf : WellFormed i = true := by cases i <;> simp [encode, WellFormed] at h ⊢
  have hi := decodeOfEncodeIsTheInstruction i wf
  rwa [h] at hi

theorem exec_ready_accepted {s : State} {i : Instr} {c : Byte} {d : Word} (hs : s.st = .ready) (hi : decodeCommand c d = .ok i) :
    exec i s = .next (s.accepted c d) := by
  rw [exec_ready hs hi, State.accepted]
  cases ht : isTransfer c
  · simp [isLineControl_of_decode hi ht, sequenceOf]
  · rfl

theorem exec_not_latched {s : State} {i : Instr} {c : Byte} {d : Word} (hs : s.st ≠ .ready) (hi : decodeCommand c d = .ok i)
    (hl : s.latched c d = false) : exec i s = .next s := by
  rcases decodeCommand_ok hi with ⟨ht, rfl⟩ | ⟨rfl, rfl⟩ | ⟨rfl, rfl⟩ | ⟨rfl, rfl⟩
  · rw [exec_transferInstr, runTransfer, transferByte_fields ht, if_neg hs, hl]
    rfl
  all_goals simp [exec, execLineReset, execSwitchToSwd, execConnect, runSequence, hs, hl]

/-- One engine transition of a command: accepted in READY, its stage while it is the command in progress, and no effect otherwise. -/
theorem exec_command {i : Instr} {c : Byte} {d : Word} (hi : decodeCommand c d = .ok i) (s : State) : exec i s =
    if s.st = .ready then .next (s.accepted c d) else if s.latched c d then commandStage c s else .next s := by
  by_cases hs : s.st = .ready
  · rw [if_pos hs, exec_ready_accepted hs hi]
  · rw [if_neg hs]
    cases hl : s.latched c d with
    | false => exact exec_not_latched hs hi hl
    | true =>
      cases ht : isTransfer c
      · rw [exec_latchedSequence hs (isLineControl_of_decode hi ht) hi (State.cmd_of_latched hl)]
        simp [commandStage, ht]
      · rw [exec_latchedTransfer hs ht hi hl]
        simp [commandStage, ht]

/-- Settles O38: the exchange that the stage calls answers CAPACITY, and the stage aborts. -/
theorem capacityErrorEndsTheCommand : Obligations.CapacityErrorEndsTheCommand := by
  intro s i c d b h hi hl hp hb hfull
  obtain ⟨k, t, ht, hx⟩ := h.sendsBatch (State.cmd_of_latched hl) hb
  have capacity : exchange b (s.sending c) = .capacity ((s.sending c).populate b) :=
    exchange_capacity hp h.lsb (h.goodBatch hb).frames hfull
  rw [capacity] at hx
  cases hx
  have hs : s.st ≠ .ready := (s.inProgress_iff.1 (State.inProgress_of_dueBatch hb).1).1
  refine ⟨((s.sending c).populate b).abort .transportCapacity, ?_, State.populate_rx _ b, State.populate_hdr _ b, ?_⟩
  · rw [exec_command (decodeCommand_of_encode hi), if_neg hs, hl, if_pos rfl, ht]
  · rw [State.populate_frame]
    rfl

end Sys2Proof.Machine
end

section
/-! ## Exclusive ownership

Between exchanges the peripheral is empty, and in flight it holds the batch's words (40_transport.md rule R74, 70_reset_and_hazards.md rule
R134). So every call finds an idle peripheral with both queues empty, and every capture takes all the raw words there are. -/

namespace Sys2Proof.Machine

/-- What exclusive ownership adds to the invariant. -/
def State.Owned (s : State) : Prop :=
  (s.phase = .call → s.txq = [] ∧ s.shifter = none ∧ s.rxq = []) ∧ s.phase ≠ .waitPush ∧
    (s.phase = .waitDone → s.wordsHeld = s.count)

theorem exclusive_iff (s : State) : Exclusive s ↔ Inv s ∧ s.Owned :=
  ⟨fun h => ⟨h.inv, h.at_call, h.no_wait, h.in_flight⟩, fun ⟨hi, hc, hw, hf⟩ => ⟨hi, hc, hw, hf⟩⟩

theorem Exclusive.owned {s : State} (h : Exclusive s) : s.Owned := ((exclusive_iff s).1 h).2

theorem State.Owned.onlyRegisters {s t : State} (h : s.Owned) (ht : OnlyRegisters s t) : t.Owned := by
  rw [ht]; exact h

/-- Nothing is left of an exchange that captured all there was. -/
theorem State.owned_of_quiet {s : State} (h : s.Quiet) : s.Owned := by
  obtain ⟨hp, hempty⟩ := h
  exact ⟨fun _ => hempty, by simp [hp], by simp [hp]⟩

/-- Under exclusive ownership there is never a word too many (40_transport.md rule R74). -/
theorem Exclusive.wordsHeld_le {s : State} (h : Exclusive s) : s.wordsHeld ≤ fifoDepth := by
  cases hp : s.phase with
  | call => obtain ⟨hq, hs, hr⟩ := h.at_call hp; simp [State.wordsHeld, hq, hs, hr]
  | waitPush => exact absurd hp h.no_wait
  | waitDone => exact h.in_flight hp ▸ h.inv.count_le

/-- Under exclusive ownership an exchange waits or is done, and leaves the peripheral owned: it meets no full queue. -/
theorem State.Owned.exchange {s : State} (h : s.Owned) {b : List Frame} (hb : GoodBatch b) (hs : TransportOk s)
    (hx : s.phase = .call ∨ Underway b s) :
    ∃ t, t.Owned ∧ (exchange b s = .pending t ∨ ∃ xs, exchange b s = .done t xs) := by
  obtain ⟨atCall, noWait, inFlight⟩ := id h
  cases hp : s.phase with
  | call =>
    obtain ⟨hq, hsh, hr⟩ := atCall hp
    have push := exchange_push hb hp hs.lsb hs.slots_four hq hsh (by simpa [hr] using hb.fits)
    exact ⟨_, ⟨by simp [State.afterPush], by simp [State.afterPush], by simp [State.afterPush, State.wordsHeld, hsh, hr]⟩, .inl push⟩
  | waitPush => exact absurd hp noWait
  | waitDone =>
    have hu := hx.resolve_left (by simp [hp])
    cases hbusy : s.busy with
    | true => exact ⟨s, h, .inl (exchange_busy_wait (by simp [hp]) hbusy)⟩
    | false =>
      have all : s.rxq.length = b.length := by rw [← wordsHeld_of_not_busy hbusy, inFlight hp, hu.count]
      obtain ⟨slots, -, done⟩ := exchange_capture hp hbusy hu.count (hu.count ▸ hu.out) all
      obtain ⟨hq, hsh⟩ := s.not_busy_iff.1 hbusy
      exact ⟨{ s with slots := slots, rxq := [], phase := .call }, State.owned_of_quiet ⟨rfl, hq, hsh, rfl⟩, .inr ⟨_, done⟩⟩

/-- What a move of an exclusively owned block leaves: the peripheral owned, and no new capacity error. -/
def KeepsOwnership (s t : State) : Prop := t.Owned ∧ NoNewCapacityError s t

theorem KeepsOwnership.onlyRegisters {s t u : State} (h : KeepsOwnership s t) (hu : OnlyRegisters t u)
    (ho : NoNewCapacityError t u) : KeepsOwnership s u :=
  ⟨h.1.onlyRegisters hu, fun hc => h.2 (ho hc)⟩

theorem KeepsOwnership.afterMove {s t : State} (h : KeepsOwnership s t) : KeepsOwnership s (afterMove t) := h

theorem KeepsOwnership.afterTick {s t : State} (h : KeepsOwnership s t) : KeepsOwnership s (afterTick t) := h

theorem Exclusive.keeps_refl {s : State} (h : Exclusive s) : KeepsOwnership s s := ⟨h.owned, .of_eq rfl⟩

theorem Exclusive.keeps_sendsBatch {s t : State} (h : Exclusive s) {c : Byte} (hx : SendsBatch c s t) : KeepsOwnership s t := by
  obtain ⟨b, k, hb, hk, hx⟩ := hx
  have underway : (s.sending c).phase = .call ∨ Underway b (s.sending c) :=
    (h.inv.underway hb).imp id fun hu => ⟨hu.count, hu.out, hu.held⟩
  have owned : (s.sending c).Owned := h.owned
  obtain ⟨u, hu, hend⟩ := owned.exchange (h.inv.goodBatch hb) (h.inv.transportOk.congr rfl) underway
  have outcome : (exchange b (s.sending c)).state? = some u → u.outcome = s.outcome := fun hs => by rw [exchange_frame hs]; rfl
  rcases hend with hend | ⟨xs, hend⟩ <;> rw [hend] at hx outcome
  · cases hx
    exact ⟨hu, .of_eq (outcome rfl)⟩
  · obtain ⟨registers, noError⟩ := hk u xs t hx
    exact KeepsOwnership.onlyRegisters ⟨hu, .of_eq (outcome rfl)⟩ registers noError

theorem awaitAck_keeps {r : Bool} {s t : State} (h : awaitAck r s = .next t) : OnlyRegisters s t ∧ NoNewCapacityError s t := by
  obtain ⟨hr, -, ⟨-, rfl⟩ | ⟨e, he, -, -, rfl⟩⟩ := awaitAck_next h
  · exact ⟨rfl, .of_eq rfl⟩
  · refine ⟨rfl, .of_code e.code rfl ?_⟩
    revert he
    cases e <;> decide

theorem State.accepted_keeps (s : State) (c : Byte) (d : Word) :
    OnlyRegisters s (s.accepted c d) ∧ NoNewCapacityError s (s.accepted c d) := by
  unfold State.accepted
  split
  · exact ⟨rfl, fun h => by simp at h⟩
  · split
    · exact ⟨rfl, fun h => by simp at h⟩
    · exact ⟨rfl, .of_code AbortCode.badCommand.code rfl (by decide)⟩

theorem Exclusive.keeps_stateMove {s t : State} (h : Exclusive s) (ht : stateMove s = .next t) : KeepsOwnership s t := by
  rcases stateMove_next ht with ⟨-, -, rfl⟩ | ⟨-, -, rfl⟩ | ⟨-, rfl⟩ | ⟨-, c, hc, ht⟩
  · exact h.keeps_refl
  · obtain ⟨registers, noError⟩ := s.accepted_keeps s.port.cmd s.port.wdata
    exact h.keeps_refl.onlyRegisters registers noError
  · split
    · exact h.keeps_refl.onlyRegisters rfl (.of_eq rfl)
    · exact h.keeps_refl
  · rcases commandStage_next hc ht with hx | ⟨-, hx⟩ | ⟨-, rfl⟩
    · exact h.keeps_sendsBatch hx
    · obtain ⟨registers, noError⟩ := awaitAck_keeps hx
      exact h.keeps_refl.onlyRegisters registers noError
    · exact h.keeps_refl

theorem tick_idle {s : State} (hq : s.txq = []) (hs : s.shifter = none) : tick s = .next s := by
  simp [tick, hq, hs]

theorem Exclusive.keeps_tick {s t : State} (h : Exclusive s) (ht : tick s = .next t) : KeepsOwnership s t := by
  have phase : t.phase = s.phase := by rw [tick_frame ht]
  have count : t.count = s.count := by rw [tick_frame ht]
  have outcome : t.outcome = s.outcome := by rw [tick_frame ht]
  cases hp : s.phase with
  | call =>
    obtain ⟨hq, hs, -⟩ := h.at_call hp
    cases (tick_idle hq hs).symm.trans ht
    exact h.keeps_refl
  | waitPush => exact absurd hp h.no_wait
  | waitDone =>
    have held : t.wordsHeld = t.count := by rw [tick_wordsHeld ht, count, h.in_flight hp]
    exact ⟨⟨by simp [phase, hp], by simp [phase, hp], fun _ => held⟩, .of_eq outcome⟩

/-- A step of an exclusively owned block keeps the ownership and meets no capacity error (40_transport.md rule R74). -/
theorem Exclusive.keeps_step {s t : State} (h : Exclusive s) (ht : step s = .next t) : KeepsOwnership s t := by
  obtain ⟨-, ⟨-, u, hu, rfl⟩ | ⟨-, u, hu, rfl⟩⟩ := step_next ht
  · exact (h.keeps_tick hu).afterTick
  · rcases engineMove_next hu with ⟨-, -, rfl⟩ | ⟨-, hu⟩
    · exact h.keeps_refl
    · exact (h.keeps_stateMove hu).afterMove

/-- Settles O52: the invariant and the ownership, each kept by every step. -/
theorem stepKeepsExclusiveOwnership : Obligations.StepKeepsExclusiveOwnership := fun s t h ht =>
  (exclusive_iff t).2 ⟨stepKeepsTheInvariant s t h.inv ht, (h.keeps_step ht).1⟩

theorem readFault_ne_rxOverflow (s : State) : readFault s ≠ some .rxOverflow := by
  intro h
  obtain ⟨r, -, he⟩ := readFault_some h
  cases hp : s.inProgress with
  | true => simp [State.rspRead, hp] at he
  | false => simpa using State.rspRead_error hp he

/-- Under the invariant the engine's move does not meet the peripheral's full queue: it is the peripheral that hands words over. -/
theorem Inv.engineMove_ne_rxOverflow {s : State} (h : Inv s) : Machine.engineMove s ≠ .fault .rxOverflow := by
  obtain ⟨u, hu, -⟩ := h.stateMove
  unfold Machine.engineMove
  split
  · rename_i f hf
    rintro ⟨⟩
    exact readFault_ne_rxOverflow s hf
  · split
    · split <;> simp
    · simp [hu]

theorem Exclusive.tick_ne_rxOverflow {s : State} (h : Exclusive s) : tick s ≠ .fault .rxOverflow := by
  obtain ⟨t, ht⟩ := tick_of_room h.inv.transportOk h.wordsHeld_le
  simp [ht]

theorem mapNext_fault_iff {f : State → State} {o : Host.Outcome State Fault Refusal} {r : Fault} :
    mapNext f o = .fault r ↔ o = .fault r := by
  cases o <;> simp [mapNext]

/-- Settles O53: the peripheral holds four words at most, so the one in its shifter finds room, and no batch finds a full queue. -/
theorem noCapacityErrorUnderExclusiveOwnership : Obligations.NoCapacityErrorUnderExclusiveOwnership := by
  refine fun s h => ⟨?_, fun t ht => (h.keeps_step ht).2⟩
  unfold step stepOnce
  split
  · simp
  · split
    · exact mt mapNext_fault_iff.1 h.tick_ne_rxOverflow
    · exact mt mapNext_fault_iff.1 h.inv.engineMove_ne_rxOverflow

end Sys2Proof.Machine
end

section
/-! ## A busy peripheral holds the engine

What any instruction can do, said once; and what of it a busy peripheral leaves (40_transport.md rules R65 and R69, 42_engine.md rule R94). -/

namespace Sys2Proof.Machine

theorem command_or_header (i : Instr) : (∃ c d, encode i = .command c d) ∨ ∃ ap r a p, i = headerInstr ap r a p := by
  cases i with
  | hdrDpRead a p => exact .inr ⟨false, true, a, p, rfl⟩
  | hdrDpWrite a p => exact .inr ⟨false, false, a, p, rfl⟩
  | hdrApRead a p => exact .inr ⟨true, true, a, p, rfl⟩
  | hdrApWrite a p => exact .inr ⟨true, false, a, p, rfl⟩
  | _ => exact .inl ⟨_, _, rfl⟩

theorem fieldRnW_headerByte (ap r : Bool) (a : BitVec 2) (p : Bool) : fieldRnW (headerByte ap r a p) = r := by
  revert ap r a p; decide

/-- A header that is due is sent for a read or a write as the latched request says (42_engine.md rule R87). -/
theorem exec_header (ap r : Bool) (a : BitVec 2) (p : Bool) (s : State) : exec (headerInstr ap r a p) s = .next s ∨
    (s.st = .sendHeader ∧ ∃ c, s.cmd = some c ∧ exec (headerInstr ap r a p) s = commandStage c s) := by
  rw [exec_headerInstr, runHeader]
  split
  · rename_i due
    obtain ⟨hs, c, hc, ht, byte⟩ := headerDue_some due
    have read : fieldRnW c = r := by
      rw [← fieldRnW_headerByte ap r a p, byte]
      exact (fieldRnW_headerByte ..).symm
    exact .inr ⟨hs, c, hc, by rw [commandStage_sendHeader ht hs, read, byte]⟩
  · exact .inl rfl

/-- All that an instruction can do: nothing, its acceptance in READY, or the stage of the latched command. -/
theorem exec_cases (i : Instr) (s : State) : exec i s = .next s ∨ (s.st = .ready ∧ ∃ c d, exec i s = .next (s.accepted c d)) ∨
    (s.st ≠ .ready ∧ ∃ c, s.cmd = some c ∧ exec i s = commandStage c s) := by
  rcases command_or_header i with ⟨c, d, hi⟩ | ⟨ap, r, a, p, rfl⟩
  · rw [exec_command (decodeCommand_of_encode hi)]
    split
    · rename_i hs; exact .inr (.inl ⟨hs, c, d, rfl⟩)
    · rename_i hs
      split
      · rename_i hl; exact .inr (.inr ⟨hs, c, State.cmd_of_latched hl, rfl⟩)
      · exact .inl rfl
  · rcases exec_header ap r a p s with hx | ⟨hs, c, hc, hx⟩
    · exact .inl hx
    · exact .inr (.inr ⟨by simp [hs], c, hc, hx⟩)

/-- `t` has the queues, the shifter and the trace of `s`. -/
def SameWire (s t : State) : Prop := t.txq = s.txq ∧ t.shifter = s.shifter ∧ t.rxq = s.rxq ∧ t.trace = s.trace

theorem SameWire.refl (s : State) : SameWire s s := ⟨rfl, rfl, rfl, rfl⟩

theorem OnlyRegisters.sameWire {s t : State} (h : OnlyRegisters s t) : SameWire s t := by
  rw [h]; exact .refl s

theorem State.populate_sameWire (s : State) (fs : List Frame) : SameWire s (s.populate fs) := by
  simp [SameWire]

/-- On a busy peripheral an exchange is refused, finds no room, or waits: it moves no word. -/
theorem exchange_busy {fs : List Frame} {s t : State} (hb : s.busy = true) {k : State → List Word → Host.Outcome State Fault Refusal}
    (h : onExchange (exchange fs s) k = .next t) : SameWire s t := by
  cases hp : s.phase with
  | call =>
    simp only [exchange, hp, hb, if_true] at h
    split at h
    · simp [onExchange] at h
    · split at h
      · simp [onExchange] at h
      · split at h <;> cases h <;> exact s.populate_sameWire fs
  | waitPush => rw [exchange_busy_wait (by simp [hp]) hb] at h; cases h; exact .refl s
  | waitDone => rw [exchange_busy_wait (by simp [hp]) hb] at h; cases h; exact .refl s

theorem commandStage_busy {s t : State} {c : Byte} (hb : s.busy = true) (hc : s.cmd = some c) (h : commandStage c s = .next t) :
    SameWire s t := by
  rcases commandStage_next hc h with ⟨b, k, -, -, hx⟩ | ⟨-, hx⟩ | ⟨-, rfl⟩
  · have same : SameWire (s.sending c) t := exchange_busy hb hx
    exact same
  · exact (awaitAck_keeps hx).1.sameWire
  · exact .refl t

theorem exec_busy {i : Instr} {s t : State} (hb : s.busy = true) (h : exec i s = .next t) : SameWire s t := by
  rcases exec_cases i s with hx | ⟨-, c, d, hx⟩ | ⟨-, c, hc, hx⟩ <;> rw [hx] at h
  · cases h; exact .refl s
  · cases h; exact (s.accepted_keeps c d).1.sameWire
  · exact commandStage_busy hb hc h

/-- Past its call SEND_HEADER has written the header it sends, so the stage starts from the state itself. -/
theorem Inv.sending_eq {s : State} (h : Inv s) {c : Byte} (hc : s.cmd = some c) (hp : s.phase ≠ .call) : s.sending c = s := by
  by_cases hs : s.st = .sendHeader
  · have hstage := h.stage
    simp only [StageOk, hs] at hstage
    obtain ⟨c', hc', -, -, hdr⟩ := hstage
    cases hc'.symm.trans hc
    rw [State.sending_sendHeader hs, ← hdr hp]
  · exact State.sending_of_st_ne hs c

/-- In an exchange's busy waits the stage writes nothing (42_engine.md rule R94). -/
theorem Inv.commandStage_busy_wait {s : State} (h : Inv s) {c : Byte} (hc : s.cmd = some c) (hb : s.busy = true)
    (hp : s.phase ≠ .call) : Machine.commandStage c s = .next s := by
  obtain hcall | ⟨b, hdue, -⟩ := h.in_exchange
  · contradiction
  · obtain ⟨k, t, ht, hx⟩ := h.sendsBatch hc hdue
    rw [h.sending_eq hc hp, exchange_busy_wait hp hb] at hx
    cases hx
    exact ht

/-- Settles O55: what any instruction does on a busy peripheral, and in an exchange's busy waits. -/
theorem engineWaitsForTheBusyPeripheral : Obligations.EngineWaitsForTheBusyPeripheral := by
  refine ⟨fun i s t => exec_busy, fun i s h hb hp hs => ?_⟩
  rcases exec_cases i s with hx | ⟨hready, -⟩ | ⟨-, c, hc, hx⟩
  · exact hx
  · simp [hready] at hs
  · exact hx.trans (h.commandStage_busy_wait hc hb hp)

end Sys2Proof.Machine
end

section
/-! ## Parity and the ACK decoder

The codec's pure functions (41_codec.md rules R79 to R83). Both parities go through `popBelow`: `EvenParity`'s mask cuts the count of all 32
bits off at bit n. -/

namespace Sys2Proof.Machine

/-- `popBelow` counts the bits that are set among the first n. -/
theorem popBelow_eq_length_filter (w : Word) (n : ℕ) : popBelow w n = ((List.range n).filter fun i => w.getLsbD i).length := by
  induction n with
  | zero => rfl
  | succ n ih =>
    rw [popBelow, ih, List.range_succ, List.filter_append, List.length_append]
    cases h : w.getLsbD n <;> simp [h]

/-- The mask of `EvenParity` keeps the bits below n, at n = 32 too (`getLsbD_lowBits` stops at 31). -/
theorem getLsbD_lowMask (w : Word) (n i : ℕ) :
    (w &&& BitVec.ofNat 32 (2 ^ n - 1)).getLsbD i = (w.getLsbD i && decide (i < n)) := by
  rw [BitVec.getLsbD_and, BitVec.getLsbD_ofNat, Nat.testBit_two_pow_sub_one]
  by_cases hi : i < 32
  · simp [hi]
  · simp [BitVec.getLsbD_of_ge w i (Nat.not_lt.1 hi)]

/-- Under the mask of the low n bits the count stops at n. -/
theorem popBelow_lowMask (w : Word) (n k : ℕ) : popBelow (w &&& BitVec.ofNat 32 (2 ^ n - 1)) k = popBelow w (min k n) := by
  induction k with
  | zero => rw [Nat.zero_min, popBelow, popBelow]
  | succ k ih =>
    rw [popBelow, ih, getLsbD_lowMask]
    by_cases h : k < n
    · rw [decide_eq_true h, Bool.and_true, min_eq_left h.le, min_eq_left h, popBelow]
    · have hk : n ≤ k := Nat.not_lt.1 h
      rw [decide_eq_false h, Bool.and_false, min_eq_right hk, min_eq_right (hk.trans k.le_succ), Bool.toNat_false, Nat.add_zero]

/-- Up to 32 bits, `EvenParity` tests the count of the bits below n. -/
theorem evenParity_of_le (w : Word) {n : ℕ} (h : n ≤ 32) : evenParity w n = .ok (popBelow w n % 2 == 0) := by
  rw [evenParity, if_pos h, popcount, popBelow_lowMask, min_eq_right h]

/-- Settles O7: the mask cuts the count off at n, and above 32 the width is refused. -/
theorem evenParityCountsTheLowBits : Obligations.EvenParityCountsTheLowBits := by
  intro w n
  refine ⟨fun h => ?_, fun h => if_neg (Nat.not_le.2 h)⟩
  rw [evenParity_of_le w h, popBelow_eq_length_filter, beq_eq_decide]

theorem toNat_parityBit (w : Word) : (parityBit w).toNat = popcount w % 2 := by
  rcases Nat.mod_two_eq_zero_or_one (popcount w) with h | h <;> simp [parityBit, h]

/-- The parity bit is set exactly when `EvenParity` of the whole word is false. -/
theorem parityBit_iff_evenParity (w : Word) : parityBit w = true ↔ evenParity w 32 = .ok false := by
  rw [evenParity_of_le w le_rfl, ← popcount, parityBit, Except.ok.injEq, beq_iff_eq, beq_eq_false_iff_ne, Nat.mod_two_ne_zero]

theorem parityOk_iff (w : Word) (p : Bool) : parityOk w p = true ↔ (popcount w + p.toNat) % 2 = 0 := beq_iff_eq

/-- Settles O8: the even count of the 33 bits is the read-side check, which the parity bit passes (`parityOk_parityBit`). -/
theorem parityBitMakesTheCountEven : Obligations.ParityBitMakesTheCountEven :=
  fun w => ⟨toNat_parityBit w, parityBit_iff_evenParity w, (parityOk_iff w _).1 (parityOk_parityBit w)⟩

/-- Of the two bits only the word's parity bit makes the count even. -/
theorem parityOk_iff_eq_parityBit (w : Word) (p : Bool) : parityOk w p = true ↔ p = parityBit w := by
  have hp : p.toNat ≤ 1 := p.toNat_le
  have toNat_injective : Function.Injective Bool.toNat := Function.LeftInverse.injective Bool.ofNat_toNat
  rw [parityOk_iff, ← toNat_injective.eq_iff, toNat_parityBit]
  omega

/-- Settles O9: the check as it is computed, and as a comparison with the parity bit. -/
theorem parityCheckAcceptsTheParityBit : Obligations.ParityCheckAcceptsTheParityBit :=
  fun w p => ⟨parityOk_iff w p, parityOk_iff_eq_parityBit w p⟩

/-- Settles O6, by evaluation of the sixteen headers. -/
theorem headerParityIsEven : Obligations.HeaderParityIsEven := by
  unfold Obligations.HeaderParityIsEven
  decide

/-- Settles O10, by evaluation of the eight codes. -/
theorem ackDecoderIsExact : Obligations.AckDecoderIsExact := by
  unfold Obligations.AckDecoderIsExact
  decide

end Sys2Proof.Machine
end

section
/-! ## The ends of a TRANSFER's stages

The abort and the response, the look at the ACK, and the data and idle stages at their captures (42_engine.md rules R86 to R93). -/

namespace Sys2Proof.Machine

/-! ### Aborts and responses -/

/-- Settles O27, code by code. -/
theorem abortGoesThroughIdleOrNot : Obligations.AbortGoesThroughIdleOrNot := fun _ => ⟨rfl, rfl, rfl, rfl, rfl, rfl⟩

/-- Settles O28: the engine's move in DONE and FAULTED looks at `rsp_take` alone. -/
theorem responseIsHeldUntilTaken : Obligations.ResponseIsHeldUntilTaken := by
  intro s htd hp hr hd hs
  rw [step_stateMove htd hp hr hd, stateMove_response hs, responseMove_eq]
  rfl

/-! ### AWAIT_ACK -/

theorem decodeAck_eq_ok_iff (a : BitVec 3) : decodeAck a = .ok ↔ a = 0b001 := by
  revert a; decide

theorem ackOutcome_of_ne_ok {a : BitVec 3} (h : a ≠ 0b001) :
    ackOutcome a = if a = 0b010 then 1 else if a = 0b100 then 2 else 3 := by
  revert a; decide

/-- Settles O34: the ACK's kind and its outcome are read off the three bits. -/
theorem awaitAckGoesByTheKind : Obligations.AwaitAckGoesByTheKind := by
  intro s i c d h hs hi ht hl hh a
  have stage : exec i s = awaitAck (fieldRnW c) s := by
    rw [exec_latchedTransfer (by simp [hs]) ht (decodeCommand_of_encode hi) hl]
    simp only [transferStage, hs]
  have ack : ackField h = a := rfl
  rw [stage, awaitAck_eq _ hh, ack]
  by_cases hk : a = 0b001
  · rw [if_pos hk, if_pos ((decodeAck_eq_ok_iff a).2 hk)]
    rfl
  · rw [if_neg hk, if_neg (mt (decodeAck_eq_ok_iff a).1 hk), ← ackOutcome_of_ne_ok hk]

/-! ### The captures of a TRANSFER's data and idle frames -/

/-- With an idle peripheral the second wait ends in the capture (40_transport.md rules R69 and R72). -/
theorem exchange_captured (fs : List Frame) {s : State} (hp : s.phase = .waitDone) (hb : s.busy = false) {slots : List Slot}
    {left samples : List Word} (hc : captureSlots s.count s.slots s.rxq = .ok (slots, left, samples)) :
    exchange fs s = .done { s with slots := slots, rxq := left, phase := .call } samples := by
  simp [exchange, hp, hb, captureBatch, hc]

theorem captureSlots_one {sl : Slot} {len : BitVec 5} (h : sl.len = some len) (rest : List Slot) (raw : Word) (raws : List Word) :
    captureSlots 1 (sl :: rest) (raw :: raws) =
      .ok ({ sl with rx := some (captureShift raw len) } :: rest, raws, [captureShift raw len]) := by
  rw [captureSlots_cons h]
  rfl

theorem captureSlots_two {sl1 sl2 : Slot} {len1 len2 : BitVec 5} (h1 : sl1.len = some len1) (h2 : sl2.len = some len2)
    (rest : List Slot) (r1 r2 : Word) (raws : List Word) :
    captureSlots 2 (sl1 :: sl2 :: rest) (r1 :: r2 :: raws) =
      .ok ({ sl1 with rx := some (captureShift r1 len1) } :: { sl2 with rx := some (captureShift r2 len2) } :: rest, raws,
        [captureShift r1 len1, captureShift r2 len2]) := by
  rw [captureSlots_cons h1, captureSlots_one h2]
  rfl

/-- The exchange of a 16-bit and a 17-bit frame, both shifted: what the data stages capture (30_encoding.md rule R55). -/
theorem exchange_captured_data (fs : List Frame) {s : State} {sl1 sl2 : Slot} {rest : List Slot} {r1 r2 : Word} {raws : List Word}
    (hp : s.phase = .waitDone) (hb : s.busy = false) (hn : s.count = 2) (hslots : s.slots = sl1 :: sl2 :: rest)
    (h1 : sl1.len = some 16) (h2 : sl2.len = some 17) (hraws : s.rxq = r1 :: r2 :: raws) :
    exchange fs s = .done { s with
      slots := { sl1 with rx := some (r1 >>> 16) } :: { sl2 with rx := some (r2 >>> 15) } :: rest, rxq := raws, phase := .call }
      [r1 >>> 16, r2 >>> 15] :=
  exchange_captured fs hp hb (by rw [hn, hslots, hraws, captureSlots_two h1 h2]; rfl)

/-- SEND_READ_DATA behind its exchange (42_engine.md rule R89). -/
theorem sendReadData_done {s u : State} {s1 s2 : Word} (h : exchange readFillFrames s = .done u [s1, s2]) :
    sendReadData s = .next { u with
      rdata := some (readWord s1 s2), rpar := some (readParity s2), st := .sendIdle,
      outcome := some (if parityOk (readWord s1 s2) (readParity s2) then okCode else AbortCode.parityMismatch.code) } := by
  simp only [sendReadData, h, onExchange]
  split
  · rfl
  · rfl

/-- SEND_WRITE_DATA behind its exchange (42_engine.md rule R91). -/
theorem sendWriteData_done {s u : State} {d : Word} {xs : List Word} (hd : s.readWdata = .ok d)
    (h : exchange (writeFrames d) s = .done u xs) : sendWriteData s = .next { u with outcome := some okCode, st := .sendIdle } := by
  simp only [sendWriteData, hd, h, onExchange]

/-- SEND_IDLE behind its exchange (42_engine.md rule R92). -/
theorem sendIdle_done {s u : State} {o : BitVec 3} {xs : List Word} (h : exchange [idleFrame] s = .done u xs)
    (ho : u.outcome = some o) : sendIdle s = .next { u with st := if o = okCode then .done else .faulted } := by
  simp only [sendIdle, h, onExchange, ho, validOr]

/-- Settles O35: the capture's two samples, and the parity check as a comparison with the parity bit. -/
theorem readDataIsAssembledAndChecked : Obligations.ReadDataIsAssembledAndChecked := by
  intro s i c d sl1 sl2 rest r1 r2 raws hs hi ht hr hc hp hb hn hslots h1 h2 hraws w p
  have read : fieldRnW c = true := hr
  have latched : s.latched c d = true := (s.latched_iff c d).2 ⟨hc, by simp [usesWdata, read]⟩
  have stage : exec i s = sendReadData s := by
    rw [exec_latchedTransfer (by simp [hs]) ht (decodeCommand_of_encode hi) latched]
    simp only [transferStage, hs, read, if_true]
  rw [stage, sendReadData_done (exchange_captured_data _ hp hb hn hslots h1 h2 hraws)]
  simp only [parityOk_iff_eq_parityBit]
  rfl

/-- Settles O36: the frames sent are those of `wdata`, and no sample is looked at. -/
theorem writeDataEndsOk : Obligations.WriteDataEndsOk := by
  intro s i c d sl1 sl2 rest r1 r2 raws hs hi ht hr hc hd hp hb hn hslots h1 h2 hraws
  have write : fieldRnW c = false := hr
  have latched : s.latched c d = true := (s.latched_iff c d).2 ⟨hc, fun _ => hd⟩
  have data : s.readWdata = .ok d := State.readWdata_of_latched latched ((usesWdata_iff c).2 ⟨ht, write⟩)
  have stage : exec i s = sendWriteData s := by
    rw [exec_latchedTransfer (by simp [hs]) ht (decodeCommand_of_encode hi) latched]
    simp only [transferStage, hs, write, Bool.false_eq_true, if_false]
  rw [stage, sendWriteData_done data (exchange_captured_data _ hp hb hn hslots h1 h2 hraws)]
  rfl

/-- Settles O37: the capture of the idle frame keeps the outcome, which alone says how the transaction ends. -/
theorem idleEndsTheTransaction : Obligations.IdleEndsTheTransaction := by
  intro s i c d o sl rest raw raws hs hi ht hl ho hp hb hn hslots hlen hraws
  have stage : exec i s = sendIdle s := by
    rw [exec_latchedTransfer (by simp [hs]) ht (decodeCommand_of_encode hi) hl]
    simp only [transferStage, hs]
  have captured := exchange_captured [idleFrame] hp hb (by rw [hn, hslots, hraws, captureSlots_one hlen])
  rw [stage, sendIdle_done captured ho]
  rfl

end Sys2Proof.Machine
end

section
/-! ## The engine's table

What a command in progress can write, as the rows of 42_engine.md rule R94 and 43_line.md rule R103; then the transitions and the frames that
follow from the rows. -/

namespace Sys2Proof.Machine

/-! ### The rows -/

/-- What the engine writes from `u`, in which an exchange has done its part: the rows of 42_engine.md rule R94 and 43_line.md rule R103 for
a command in progress, by the registers that they write. The values written are those of `sendHeader_next` and its likes. -/
inductive TableRow (u : State) : State → Prop
  | hold : TableRow u u
  | capacity (h : engineEdge u.st .faulted = true) : TableRow u (u.abort .transportCapacity)
  | header (h : u.st = .sendHeader) (resp : BitVec 13) : TableRow u { u with hresp := some resp, st := .awaitAck }
  | ackOk (h : u.st = .awaitAck) (a : BitVec 3) (read : Bool) :
      TableRow u { u with ack := some a, st := if read then .sendReadData else .sendWriteData }
  | ackNotOk (h : u.st = .awaitAck) (a o : BitVec 3) : TableRow u { u with ack := some a, outcome := some o, st := .sendIdle }
  | readData (h : u.st = .sendReadData) (w : Word) (p : Bool) (o : BitVec 3) :
      TableRow u { u with rdata := some w, rpar := some p, outcome := some o, st := .sendIdle }
  | writeData (h : u.st = .sendWriteData) : TableRow u { u with outcome := some okCode, st := .sendIdle }
  | idle (h : u.st = .sendIdle) (o : BitVec 3) : TableRow u { u with st := if o = okCode then .done else .faulted }
  | batch (h : u.st = .sendSequence) (k : Nat) : TableRow u { u with seqIdx := some k }
  | lastBatch (h : u.st = .sendSequence) (k : Nat) :
      TableRow u { u with seqIdx := some k, outcome := some okCode, st := .done }

/-- `t` is reached from `s` by an exchange's part and a row of the table. -/
def ByTable (s t : State) : Prop := ∃ u, OnlyTransport s u ∧ TableRow u t

theorem OnlyTransport.refl (s : State) : OnlyTransport s s := rfl

theorem OnlyTransport.st {s u : State} (h : OnlyTransport s u) : u.st = s.st := by
  rw [h]

/-- A move without an exchange. -/
theorem TableRow.byTable {s t : State} (h : TableRow s t) : ByTable s t := ⟨s, .refl s, h⟩

/-- CAPACITY in a state that the table lets go to FAULTED. -/
theorem ByTable.of_capacity {b : List Frame} {s u : State} (h : exchange b s = .capacity u)
    (hs : engineEdge s.st .faulted = true) : ByTable s (u.abort .transportCapacity) := by
  have only : OnlyTransport s u := exchange_only (by rw [h]; rfl)
  exact ⟨u, only, .capacity (only.st ▸ hs)⟩

theorem ByTable.of_pending {b : List Frame} {s t : State} (h : exchange b s = .pending t) : ByTable s t :=
  ⟨t, exchange_only (by rw [h]; rfl), .hold⟩

/-- A finished exchange with the row that the samples lead to. -/
theorem ByTable.of_done {b : List Frame} {s u t : State} {xs : List Word} {st : EngineState} (h : exchange b s = .done u xs)
    (hs : s.st = st) (row : u.st = st → TableRow u t) : ByTable s t := by
  have only : OnlyTransport s u := exchange_only (by rw [h]; rfl)
  exact ⟨u, only, row (only.st.trans hs)⟩

theorem headerOfCommand_transferByte (ap r : Bool) (a : BitVec 2) : headerOfCommand (transferByte ap r a) = buildHeader ap r a := by
  revert ap r a; decide

/-- The stage of a TRANSFER goes by the table; SEND_HEADER has written `hdr` before its exchange. -/
theorem transferStage_byTable {ap r : Bool} {a : BitVec 2} {s t : State} (h : transferStage ap r a s = .next t) :
    ByTable (s.sending (transferByte ap r a)) t := by
  have sending := fun hs => s.sending_of_st_ne hs (transferByte ap r a)
  rcases transferStage_next h with ⟨hs, h⟩ | ⟨hs, h⟩ | ⟨hs, -, h⟩ | ⟨hs, -, h⟩ | ⟨hs, h⟩ | ⟨hp, rfl⟩
  · have called : s.sending (transferByte ap r a) = { s with hdr := some (buildHeader ap r a) } := by
      rw [State.sending_sendHeader hs, headerOfCommand_transferByte]
    rw [called]
    rcases sendHeader_next h with ⟨u, hx, rfl⟩ | hx | ⟨u, x, hx, rfl⟩
    · exact .of_capacity hx (by simp only [hs]; rfl)
    · exact .of_pending hx
    · exact .of_done hx hs fun hu => .header hu _
  · rw [sending (by simp [hs])]
    obtain ⟨hr, -, ⟨-, rfl⟩ | ⟨e, -, -, -, rfl⟩⟩ := awaitAck_next h
    · exact (TableRow.ackOk hs _ _).byTable
    · exact (TableRow.ackNotOk hs _ _).byTable
  · rw [sending (by simp [hs])]
    rcases sendReadData_next h with ⟨u, hx, rfl⟩ | hx | ⟨u, s1, s2, hx, rfl⟩
    · exact .of_capacity hx (by rw [hs]; rfl)
    · exact .of_pending hx
    · exact .of_done hx hs fun hu => .readData hu _ _ _
  · rw [sending (by simp [hs])]
    obtain ⟨d, -, ⟨u, hx, rfl⟩ | hx | ⟨u, xs, hx, rfl⟩⟩ := sendWriteData_next h
    · exact .of_capacity hx (by rw [hs]; rfl)
    · exact .of_pending hx
    · exact .of_done hx hs .writeData
  · rw [sending (by simp [hs])]
    rcases sendIdle_next h with ⟨u, hx, rfl⟩ | hx | ⟨u, xs, o, hx, -, rfl⟩
    · exact .of_capacity hx (by rw [hs]; rfl)
    · exact .of_pending hx
    · exact .of_done hx hs fun hu => .idle hu o
  · rw [sending fun hs => by simp [State.inProgress, State.cmdReady, State.rspValid, hs] at hp]
    exact TableRow.hold.byTable

theorem sequenceStage_byTable {s t : State} (h : sequenceStage s = .next t) : ByTable s t := by
  rcases sequenceStage_next h with ⟨hs, h⟩ | ⟨-, rfl⟩
  · obtain ⟨batches, k, b, -, -, -, ⟨u, hx, rfl⟩ | hx | ⟨u, xs, hx, ⟨-, rfl⟩ | ⟨-, rfl⟩⟩⟩ := sendSequence_next h
    · exact .of_capacity hx (by rw [hs]; rfl)
    · exact .of_pending hx
    · exact .of_done hx hs fun hu => .lastBatch hu _
    · exact .of_done hx hs fun hu => .batch hu _
  · exact TableRow.hold.byTable

/-- In SEND_HEADER a line-control command has no stage. -/
theorem sequenceStage_st_ne {s t : State} (h : sequenceStage s = .next t) : s.st ≠ .sendHeader := by
  intro hs
  simp [sequenceStage, hs] at h

/-- The stage of the latched command goes by the table. -/
theorem commandStage_byTable {c : Byte} {s t : State} (h : commandStage c s = .next t) : ByTable (s.sending c) t := by
  unfold commandStage at h
  split at h
  · rename_i ht
    rw [← transferByte_fields ht]
    exact transferStage_byTable h
  · rw [State.sending_of_st_ne (sequenceStage_st_ne h)]
    exact sequenceStage_byTable h

/-! ### Transitions -/

theorem TableRow.edge {u t : State} (h : TableRow u t) : t.st = u.st ∨ engineEdge u.st t.st = true := by
  cases h with
  | hold => exact .inl rfl
  | capacity h => exact .inr h
  | header h _ => right; rw [h]; rfl
  | ackOk h _ read => right; rw [h]; cases read <;> rfl
  | ackNotOk h _ _ => right; rw [h]; rfl
  | readData h _ _ _ => right; rw [h]; rfl
  | writeData h => right; rw [h]; rfl
  | idle h o =>
    right
    simp only [h]
    split <;> rfl
  | batch _ _ => exact .inl rfl
  | lastBatch h _ => right; rw [h]; rfl

theorem ByTable.edge {s t : State} (h : ByTable s t) : t.st = s.st ∨ engineEdge s.st t.st = true := by
  obtain ⟨u, only, row⟩ := h
  rw [← only.st]
  exact row.edge

/-- An acceptance leaves READY for SEND_HEADER, SEND_SEQUENCE or FAULTED (42_engine.md rule R85, 43_line.md rule R107). -/
theorem State.accepted_edge (s : State) (c : Byte) (d : Word) : engineEdge .ready (s.accepted c d).st = true := by
  unfold State.accepted
  split
  · rfl
  · split <;> rfl

theorem stateMove_edge {s t : State} (h : stateMove s = .next t) : t.st = s.st ∨ engineEdge s.st t.st = true := by
  rcases stateMove_next h with ⟨-, -, rfl⟩ | ⟨hs, -, rfl⟩ | ⟨hs, rfl⟩ | ⟨-, c, -, h⟩
  · exact .inl rfl
  · right; rw [hs]; exact s.accepted_edge _ _
  · split
    · right; rcases hs with hs | hs <;> rw [hs] <;> rfl
    · exact .inl rfl
  · exact (commandStage_byTable h).edge

/-- Settles O46: the peripheral and a teardown leave `st`, and the engine's move goes by the table. -/
theorem engineMovesOnlyByListedTransitions : Obligations.EngineMovesOnlyByListedTransitions := by
  intro s t h
  obtain ⟨-, ⟨-, u, hu, rfl⟩ | ⟨-, u, hu, rfl⟩⟩ := step_next h
  · left; rw [afterTick_st, tick_frame hu]
  · rcases engineMove_next hu with ⟨-, -, rfl⟩ | ⟨-, hu⟩
    · exact .inl rfl
    · rw [afterMove_st]; exact stateMove_edge hu

/-! ### What the rows leave -/

/-- `t` has the configuration, the shifter, the host's lines and the scheduler's fields of `s`. -/
def SameSetting (s t : State) : Prop :=
  t.bitOrder = s.bitOrder ∧ t.shifter = s.shifter ∧ t.tornDown = s.tornDown ∧ t.port = s.port ∧ t.turn = s.turn ∧
    t.draws = s.draws

theorem OnlyRegisters.sameSetting {s t : State} (h : OnlyRegisters s t) : SameSetting s t := by
  rw [h]; exact ⟨rfl, rfl, rfl, rfl, rfl, rfl⟩

theorem TableRow.onlyRegisters {u t : State} (h : TableRow u t) : OnlyRegisters u t := by
  cases h <;> rfl

/-- No row writes the latched command. -/
theorem TableRow.command {u t : State} (h : TableRow u t) : t.cmd = u.cmd ∧ t.wdata = u.wdata ∧ t.seq = u.seq := by
  cases h <;> exact ⟨rfl, rfl, rfl⟩

theorem ByTable.sameSetting {s t : State} (h : ByTable s t) : SameSetting s t := by
  obtain ⟨u, only, row⟩ := h
  have setting := row.onlyRegisters.sameSetting
  rw [only] at setting
  exact setting

theorem ByTable.command {s t : State} (h : ByTable s t) : t.cmd = s.cmd ∧ t.wdata = s.wdata ∧ t.seq = s.seq := by
  obtain ⟨u, only, row⟩ := h
  have command := row.command
  rw [only] at command
  exact command

/-- Settles O40: an acceptance writes registers alone, and outside READY the engine goes by the table. -/
theorem execKeepsTheCommandAndTheConfiguration : Obligations.ExecKeepsTheCommandAndTheConfiguration := by
  intro i s t h
  have keeps : SameSetting s t ∧ (s.st ≠ .ready → t.cmd = s.cmd ∧ t.wdata = s.wdata ∧ t.seq = s.seq) := by
    rcases exec_cases i s with hx | ⟨hs, c, d, hx⟩ | ⟨-, c, -, hx⟩ <;> rw [hx] at h
    · cases h
      exact ⟨⟨rfl, rfl, rfl, rfl, rfl, rfl⟩, fun _ => ⟨rfl, rfl, rfl⟩⟩
    · cases h
      exact ⟨(s.accepted_keeps c d).1.sameSetting, fun hn => absurd hs hn⟩
    · exact ⟨(commandStage_byTable h).sameSetting, fun _ => (commandStage_byTable h).command⟩
  obtain ⟨⟨order, shifter, torn, port, turn, draws⟩, command⟩ := keeps
  exact ⟨order, shifter, torn, port, turn, draws, command⟩

/-- From `s` to `t` each result register is written in its own state only (42_engine.md rule R94, column "writes"); `hdr` is
`State.sending`'s. -/
def WritesInState (s t : State) : Prop :=
  t.hdr = s.hdr ∧ (s.st ≠ .sendHeader → t.hresp = s.hresp) ∧ (s.st ≠ .awaitAck → t.ack = s.ack) ∧
    (s.st ≠ .sendReadData → t.rdata = s.rdata ∧ t.rpar = s.rpar) ∧ t.seq = s.seq ∧ (s.st ≠ .sendSequence → t.seqIdx = s.seqIdx)

theorem TableRow.writesInState {u t : State} (h : TableRow u t) : WritesInState u t := by
  cases h with
  | header h _ => exact ⟨rfl, fun hn => absurd h hn, fun _ => rfl, fun _ => ⟨rfl, rfl⟩, rfl, fun _ => rfl⟩
  | ackOk h _ _ => exact ⟨rfl, fun _ => rfl, fun hn => absurd h hn, fun _ => ⟨rfl, rfl⟩, rfl, fun _ => rfl⟩
  | ackNotOk h _ _ => exact ⟨rfl, fun _ => rfl, fun hn => absurd h hn, fun _ => ⟨rfl, rfl⟩, rfl, fun _ => rfl⟩
  | readData h _ _ _ => exact ⟨rfl, fun _ => rfl, fun _ => rfl, fun hn => absurd h hn, rfl, fun _ => rfl⟩
  | batch h _ => exact ⟨rfl, fun _ => rfl, fun _ => rfl, fun _ => ⟨rfl, rfl⟩, rfl, fun hn => absurd h hn⟩
  | lastBatch h _ => exact ⟨rfl, fun _ => rfl, fun _ => rfl, fun _ => ⟨rfl, rfl⟩, rfl, fun hn => absurd h hn⟩
  | _ => exact ⟨rfl, fun _ => rfl, fun _ => rfl, fun _ => ⟨rfl, rfl⟩, rfl, fun _ => rfl⟩

theorem ByTable.writesInState {s t : State} (h : ByTable s t) : WritesInState s t := by
  obtain ⟨u, only, row⟩ := h
  have writes := row.writesInState
  rw [only] at writes
  exact writes

/-- A TRANSFER has no stage in SEND_SEQUENCE (42_engine.md rule R94). -/
theorem transferStage_st_ne {ap r : Bool} {a : BitVec 2} {s t : State} (h : transferStage ap r a s = .next t) :
    s.st ≠ .sendSequence := by
  intro hs
  simp [transferStage, hs] at h

/-- The TRANSFER rows are the four requests. -/
theorem transfer_row {i : Instr} {a : BitVec 2} {d : Word} (h : i = .dpr a d ∨ i = .dpw a d ∨ i = .apr a d ∨ i = .apw a d) :
    ∃ ap r, i = transferInstr ap r a d := by
  rcases h with rfl | rfl | rfl | rfl
  exacts [⟨false, true, rfl⟩, ⟨false, false, rfl⟩, ⟨true, true, rfl⟩, ⟨true, false, rfl⟩]

/-- A TRANSFER in progress runs its stage or does nothing. -/
theorem runTransfer_next {ap r : Bool} {a : BitVec 2} {d : Word} {s t : State} (hs : s.st ≠ .ready)
    (h : runTransfer ap r a d s = .next t) : t = s ∨ transferStage ap r a s = .next t := by
  rw [runTransfer, if_neg hs] at h
  split at h
  · exact .inr h
  · cases h; exact .inl rfl

/-- Settles O42: the table's rows, of which a TRANSFER takes none in SEND_SEQUENCE. -/
theorem transferWritesEachResultInItsState : Obligations.TransferWritesEachResultInItsState := by
  intro s t a d i hi h hs
  obtain ⟨ap, r, rfl⟩ := transfer_row hi
  rw [exec_transferInstr] at h
  rcases runTransfer_next hs h with rfl | h
  · exact ⟨fun _ => ⟨rfl, rfl⟩, fun _ => rfl, fun _ => ⟨rfl, rfl⟩, rfl, rfl⟩
  · have hseq : s.st ≠ .sendSequence := transferStage_st_ne h
    obtain ⟨hdr, hresp, ack, data, seq, seqIdx⟩ := (transferStage_byTable h).writesInState
    refine ⟨fun hn => ⟨?_, hresp hn⟩, ack, data, seq, seqIdx hseq⟩
    rw [hdr, State.sending_of_st_ne hn]

end Sys2Proof.Machine
end

section
/-! ## Line control and reserved words

The command words that are no TRANSFER: a batch counted by SEND_SEQUENCE, what a line-control command leaves, and the reserved words (43_line.md
rules R103 to R107). -/

namespace Sys2Proof.Machine

/-! ### Reserved words -/

/-- A reserved word is accepted as BAD_COMMAND (43_line.md rule R107). -/
theorem State.accepted_reserved {c : Byte} (h : reservedCommand c = true) (s : State) (d : Word) :
    s.accepted c d = s.acceptReserved c d := by
  obtain ⟨ht, hl⟩ := reserved_excludes h
  simp [State.accepted, ht, hl]

/-- Settles O26: the engine's move in READY accepts the word, and the acceptance of a reserved word is its end. -/
theorem reservedWordEndsInBadCommand : Obligations.ReservedWordEndsInBadCommand := by
  intro s htd hp hr hd hs hv reserved
  rw [step_stateMove htd hp hr hd, stateMove_ready hs, readyMove_offer hs hv, State.accepted_reserved reserved]
  rfl

/-! ### SEND_SEQUENCE at the end of a batch -/

/-- SEND_SEQUENCE behind its exchange (43_line.md rule R103). -/
theorem sendSequence_done {s u : State} {batches : List (List Frame)} {k : Nat} {b : List Frame} {xs : List Word}
    (hq : s.seq = some batches) (hk : s.seqIdx = some k) (hb : batches[k]? = some b) (h : exchange b s = .done u xs) :
    sendSequence s = .next (if k + 1 = batches.length
      then { u with seqIdx := some (k + 1), outcome := some okCode, st := .done }
      else { u with seqIdx := some (k + 1) }) := by
  simp only [sendSequence, hq, hk, hb, h, onExchange]
  split
  · rfl
  · rfl

/-- Under the invariant the batch due, once shifted, is captured: a raw word is taken for each frame (40_transport.md rule R72). -/
theorem Inv.exchange_shifted {s : State} (h : Inv s) {b : List Frame} (hb : s.dueBatch = some b) (hp : s.phase = .waitDone)
    (idle : s.busy = false) : ∃ slots xs,
      exchange b s = .done { s with slots := slots, rxq := s.rxq.drop b.length, phase := .call } xs := by
  have under : Underway b s := (h.underway hb).resolve_left (by simp [hp])
  have enough : s.count ≤ s.rxq.length := wordsHeld_of_not_busy idle ▸ under.held hp
  obtain ⟨slots, captured, -⟩ := captureSlots_eq s.count s.slots b s.rxq under.count under.out enough
  rw [← under.count]
  exact ⟨slots, _, exchange_captured b hp idle captured⟩

/-- Settles O39: the invariant has a raw word for each frame of the batch, and the count decides between the next batch and the end. -/
theorem sequenceCountsItsBatches : Obligations.SequenceCountsItsBatches := by
  intro s i c d k b h hs hi hc hk hb hp idle
  have hstage := h.stage
  simp only [StageOk, hs] at hstage
  obtain ⟨c', k', hc', line, -, hq, -⟩ := hstage
  cases hc.symm.trans hc'
  obtain ⟨slots, xs, done⟩ := h.exchange_shifted ((dueBatch_sendSequence hs hq hk).trans hb) hp idle
  have stage : exec i s = sendSequence s := by
    rw [exec_latchedSequence (by simp [hs]) line (decodeCommand_of_encode hi) hc]
    simp only [sequenceStage, hs]
  have counted := stage.trans (sendSequence_done hq hk hb done)
  by_cases last : k + 1 = (sequenceOf c).length
  · rw [if_pos last] at counted
    exact ⟨_, counted, rfl, rfl, rfl, (if_pos last).mpr ⟨rfl, rfl⟩, rfl⟩
  · rw [if_neg last] at counted
    exact ⟨_, counted, rfl, rfl, rfl, (if_neg last).mpr ⟨hs, rfl⟩, rfl⟩

/-! ### What a line-control command leaves -/

/-- The line-control rows are the three command words. -/
theorem lineControl_row {i : Instr} {d : Word} (h : i = .lineReset d ∨ i = .switchToSwd d ∨ i = .connect d) :
    ∃ c, isLineControl c = true ∧ decodeCommand c d = .ok i := by
  rcases h with rfl | rfl | rfl
  exacts [⟨lineResetByte, rfl, rfl⟩, ⟨switchToSwdByte, rfl, rfl⟩, ⟨connectByte, rfl, rfl⟩]

/-- A line-control command outside READY runs SEND_SEQUENCE or does nothing. -/
theorem exec_lineControl_next {i : Instr} {c : Byte} {d : Word} {s t : State} (line : isLineControl c = true)
    (hi : decodeCommand c d = .ok i) (hs : s.st ≠ .ready) (h : exec i s = .next t) :
    (s.st = .sendSequence ∧ sequenceStage s = .next t) ∨ t = s := by
  rw [exec_command hi, if_neg hs] at h
  split at h
  · rw [commandStage, (lineControl_excludes line).2, if_neg Bool.false_ne_true] at h
    exact (sequenceStage_next h).imp (fun ⟨hst, _⟩ => ⟨hst, h⟩) And.right
  · cases h; exact .inr rfl

/-- Settles O41: the engine's table writes no result of a TRANSFER in SEND_SEQUENCE. -/
theorem lineControlSetsNoTransferResult : Obligations.LineControlSetsNoTransferResult := by
  intro s t d i hi h hs
  obtain ⟨c, line, hi⟩ := lineControl_row hi
  rcases exec_lineControl_next line hi hs h with ⟨hst, stage⟩ | rfl
  · obtain ⟨hdr, hresp, ack, data, -⟩ := (sequenceStage_byTable stage).writesInState
    obtain ⟨rdata, rpar⟩ := data (by simp [hst])
    exact ⟨hdr, hresp (by simp [hst]), ack (by simp [hst]), rdata, rpar⟩
  · exact ⟨rfl, rfl, rfl, rfl, rfl⟩

end Sys2Proof.Machine
end

section
/-! ## Teardown

A step looks at the torn-down flag before anything else, and the engine's move at a request to tear down before its own
state (70_reset_and_hazards.md rule R124; the order within a move is log 24). -/

namespace Sys2Proof.Machine

theorem step_tornDown {s : State} (h : s.tornDown = true) : step s = .refused .afterTeardown := by
  simp [step, stepOnce, h]

/-- The engine's move when a teardown is requested and no read faults. -/
theorem engineMove_teardown {s : State} (hr : readFault s = none) (hd : s.port.teardown = true) :
    engineMove s = if s.inProgress then .refused .teardownInProgress else .next { s with tornDown := true } := by
  simp [engineMove, hr, hd]

/-- The step of a block that is not torn down, when the turn is the engine's. -/
theorem step_engineMove {s : State} (htd : s.tornDown = false) (hp : s.peripheralMoves = false) :
    step s = mapNext afterMove (engineMove s) := by
  simp [step, stepOnce, htd, hp]

/-- The states with no command in progress: READY, DONE and FAULTED. -/
theorem State.inProgress_eq_false_iff (s : State) : s.inProgress = false ↔ s.st ∈ [.ready, .done, .faulted] := by
  have h := not_congr s.inProgress_iff
  simpa [← or_iff_not_imp_left] using h

/-- Settles O49: the flag refuses every step, and a request to tear down is met or refused by whether a command is in progress. -/
theorem noStepAfterTeardown : Obligations.NoStepAfterTeardown := by
  refine ⟨fun s => step_tornDown, fun s htd hp hr hd => ?_⟩
  rw [step_engineMove htd hp, engineMove_teardown hr hd, ← s.inProgress_eq_false_iff]
  constructor
  · intro idle
    rw [idle]; rfl
  · intro busy
    rw [eq_true_of_ne_false busy]; rfl

end Sys2Proof.Machine
end

section
/-! ## Header rows and the decoded instruction

A header row whose byte is due is the engine's SEND_HEADER step for it (42_engine.md rule R87; log 11). A step runs what the decoder
reads: from the command port in READY, from the header due in SEND_HEADER, from the latched command in the other states of a command
in progress. -/

namespace Sys2Proof.Machine

/-! ### The header rows at the capture, and beside their TRANSFER -/

theorem decodeHeader_of_encode {i : Instr} {h : Byte} (wf : WellFormed i = true) (hi : encode i = .header h) :
    decodeHeader h = .ok i := by
  have decoded := decodeOfEncodeIsTheInstruction i wf
  rwa [hi] at decoded

/-- A due header's row sends it as the byte's own RnW says (30_encoding.md rule R53). -/
theorem exec_dueRow {s : State} {h : Byte} {i : Instr} (hd : s.headerDue = some h) (hi : decodeHeader h = .ok i) :
    exec i s = sendHeader (fieldRnW h) h s := by
  obtain ⟨byte, rfl⟩ := decodeHeader_ok hi
  rw [exec_headerInstr, ← buildHeader, ← byte, runHeader, if_pos hd]

/-- SEND_HEADER behind its exchange (42_engine.md rule R87). -/
theorem sendHeader_done {r : Bool} {hdr : Byte} {s u : State} {x : Word}
    (h : exchange [headerFrame r hdr] { s with hdr := some hdr } = .done u [x]) : sendHeader r hdr s =
      .next { u with hresp := some (headerResponse r x (Config.hrespDiscarded u.draws)), st := .awaitAck } := by
  simp only [sendHeader, h, onExchange]

/-- Bit 12 of a read's header response is the sampled word's, as no H or Z position stands there (30_encoding.md rule R56). -/
theorem headerResponse_read_bit12 (x : Word) (free : BitVec 13) : (headerResponse true x free).getLsbD 12 = x.getLsbD 12 := by
  simp [headerResponse, discardedBits]

/-- Settles O32: the row is SEND_HEADER for its byte, whose exchange captures the one slot. -/
theorem headerRowsTakeTheResponse : Obligations.HeaderRowsTakeTheResponse := by
  intro s i h sl rest len raw raws wf hi hdue hp hb hn hslots hlen hraws x
  have captured := exchange_captured (s := { s with hdr := some h }) [headerFrame (fieldRnW h) h] hp hb
    (by rw [hn, hslots, hraws, captureSlots_one hlen])
  refine ⟨headerResponse (fieldRnW h) x (Config.hrespDiscarded s.draws), ackField_headerResponse .., fun read => ?_, ?_⟩
  · rw [show fieldRnW h = true from read, headerResponse_read_bit12]
  · rw [exec_dueRow hdue (decodeHeader_of_encode wf hi), sendHeader_done captured]
    rfl

/-- In SEND_HEADER the header of the latched request is due. -/
theorem State.headerDue_of_transfer {s : State} {c : Byte} (hs : s.st = .sendHeader) (hc : s.cmd = some c)
    (ht : isTransfer c = true) : s.headerDue = some (headerOfCommand c) := by
  simp only [State.headerDue, hs, hc, ht, if_true]

/-- The three request fields are bits 4:1, of a command and of a header (30_encoding.md rules R49 and R53). -/
theorem fields_of_requestBits (b : Byte) : fieldAPnDP b = (b.extractLsb' 1 4).getLsbD 0 ∧
    fieldRnW b = (b.extractLsb' 1 4).getLsbD 1 ∧ fieldAddr b = (b.extractLsb' 1 4).extractLsb' 2 2 := by
  revert b; decide

/-- A header that decodes is the one of every command with its request bits (42_engine.md rule R87). -/
theorem headerOfCommand_of_requestBits {c h : Byte} {i : Instr} (hi : decodeHeader h = .ok i)
    (bits : h.extractLsb' 1 4 = c.extractLsb' 1 4) : headerOfCommand c = h := by
  obtain ⟨apC, rC, aC⟩ := fields_of_requestBits c
  obtain ⟨apH, rH, aH⟩ := fields_of_requestBits h
  obtain ⟨byte, -⟩ := decodeHeader_ok hi
  rw [headerOfCommand, apC, rC, aC, ← bits, ← apH, ← rH, ← aH, ← byte]

/-- The stage of the latched command is what every encoding of it runs, whatever data it carries where the command ignores it. -/
theorem exec_latchedCommand {s : State} {c : Byte} {d : Word} {i : Instr} (hs : s.st ≠ .ready) (hl : s.latched c d = true)
    (hi : decodeCommand c d = .ok i) : exec i s = commandStage c s := by
  rw [exec_command hi, if_neg hs, if_pos hl]

/-- Settles O33: the row's byte is the header of the latched command, so both are SEND_HEADER for that byte. -/
theorem transferSendsItsHeaderRow : Obligations.TransferSendsItsHeaderRow := by
  intro s i j c h d hs hi ht hl wf hj bits
  have decoded := decodeHeader_of_encode wf hj
  have byte : headerOfCommand c = h := headerOfCommand_of_requestBits decoded bits
  have due : s.headerDue = some h := byte ▸ State.headerDue_of_transfer hs (State.cmd_of_latched hl) ht
  have read : fieldRnW h = fieldRnW c := byte ▸ fieldRnW_headerByte ..
  calc exec i s = commandStage c s := exec_latchedCommand (by simp [hs]) hl (decodeCommand_of_encode hi)
    _ = sendHeader (fieldRnW c) (headerOfCommand c) s := commandStage_sendHeader ht hs
    _ = exec j s := by rw [exec_dueRow due decoded, byte, read]

/-! ### The step runs what the decoder reads -/

theorem readyMove_decoded {s : State} {i : Instr} (hv : s.port.cmdValid = true)
    (hi : decode (.command s.port.cmd s.port.wdata) = .ok i) : readyMove s = exec i s := by
  simp only [readyMove, hv, if_true, hi]

theorem progressMove_currentInstr {s : State} {i : Instr} (hi : currentInstr s = .ok i) : progressMove s = exec i s := by
  simp only [progressMove, hi]

/-- The engine finds a data word for the latched command, whether the command uses one or not (log 19). -/
theorem State.requestData_of_latched {s : State} {c : Byte} {d : Word} (hl : s.latched c d = true) :
    ∃ d', s.requestData c = .ok d' := by
  unfold State.requestData
  split
  · rename_i uses; exact ⟨d, State.readWdata_of_latched hl uses⟩
  · exact ⟨0, rfl⟩

/-- Whether a command word decodes does not depend on its data (30_encoding.md rule R51). -/
theorem decodeCommand_ok_of_data {c : Byte} {d : Word} {i : Instr} (hi : decodeCommand c d = .ok i) (d' : Word) :
    ∃ j, decodeCommand c d' = .ok j := by
  cases hd : decodeCommand c d' with
  | ok j => exact ⟨j, rfl⟩
  | error e =>
    obtain ⟨e', he'⟩ := (decodeCommand_error_iff c d).2 (reservedCommand_of_decode_error hd)
    simp [hi] at he'

/-- A command in progress behind its header moves as the latched command. -/
theorem progressMove_latched {s : State} {c : Byte} {d : Word} {i : Instr} (hr : s.st ≠ .ready) (hs : s.st ≠ .sendHeader)
    (hl : s.latched c d = true) (hi : decodeCommand c d = .ok i) : progressMove s = exec i s := by
  have hc : s.cmd = some c := State.cmd_of_latched hl
  obtain ⟨d', hd'⟩ := State.requestData_of_latched hl
  obtain ⟨j, hj⟩ := decodeCommand_ok_of_data hi d'
  rw [progressMove_currentInstr ((currentInstr_latched hs).2 ⟨c, d', hc, hd', hj⟩),
    exec_latchedCommand hr (State.latched_of_requestData hc hd') hj, exec_latchedCommand hr hl hi]

/-- Settles O43: the engine's move by its state, READY, SEND_HEADER or a later state of the command in progress. -/
theorem stepRunsTheDecodedInstruction : Obligations.StepRunsTheDecodedInstruction := by
  intro s i htd hp hr hd
  rw [step_stateMove htd hp hr hd]
  refine ⟨fun hs hv hi => ?_, fun h hdue hi => ?_, fun c d hs hl hi => ?_⟩
  · rw [stateMove_ready hs, readyMove_decoded hv hi]
  · have hs : s.st = .sendHeader := (headerDue_some hdue).1
    rw [stateMove_inProgress (s.inProgress_iff.2 (by simp [hs])),
      progressMove_currentInstr ((currentInstr_sendHeader hs).2 ⟨h, hdue, hi⟩)]
  · have behind : s.st ≠ .ready ∧ s.st ≠ .sendHeader ∧ s.st ≠ .done ∧ s.st ≠ .faulted := by
      revert hs; cases s.st <;> decide
    obtain ⟨hready, hheader, hdone, hfaulted⟩ := behind
    rw [stateMove_inProgress (s.inProgress_iff.2 ⟨hready, hdone, hfaulted⟩), progressMove_latched hready hheader hl hi]

/-! ### Placed words -/

theorem decodeTableWord_some {nbits w : Nat} {i : Instr} (h : decodeTableWord nbits w = some i) :
    decode (tableWords nbits w) = .ok i := by
  unfold decodeTableWord at h
  split at h
  · simp at h
  · split at h
    · rename_i hd; rw [hd, Option.some.inj h]
    · simp at h

/-- The command that `placeWords` latches for a header is the TRANSFER whose header it is (30_encoding.md rule R49). -/
theorem headerOfCommand_commandOfHeader {h : Byte} {i : Instr} (hi : decodeHeader h = .ok i) :
    headerOfCommand (commandOfHeader h) = h := by
  rw [commandOfHeader, headerOfCommand_transferByte]
  exact (decodeHeader_ok hi).1.symm

theorem placeWords_headerDue (s : State) {h : Byte} {i : Instr} (hi : decodeHeader h = .ok i) :
    (placeWords (.header h) s).headerDue = some h :=
  (State.headerDue_of_transfer rfl rfl (isTransfer_transferByte ..)).trans
    (congrArg some (headerOfCommand_commandOfHeader hi))

/-- A step after words that decode have been placed runs their instruction, a command from READY and a header from SEND_HEADER. -/
theorem step_placeWords (s : State) {ws : Words} {i : Instr} (hi : decode ws = .ok i) :
    step (placeWords ws s) = mapNext afterMove (exec i (placeWords ws s)) := by
  cases ws with
  | command c d => exact (stepRunsTheDecodedInstruction _ i rfl rfl rfl rfl).1 rfl rfl hi
  | header h => exact (stepRunsTheDecodedInstruction _ i rfl rfl rfl rfl).2.1 h (placeWords_headerDue s hi) hi

/-- Settles O44: the placed words decode to the instruction, and the step runs it. -/
theorem placedWordIsRunNext : Obligations.PlacedWordIsRunNext := fun s _ _ _ h => step_placeWords s (decodeTableWord_some h)

end Sys2Proof.Machine
end
